-- ==== Sys2Proof/Word.lean ====
section
/-! DEFINITION. The two units of data of the block: the byte of STORAGE (R27) and the 32-bit command or response
word (R60). -/

namespace Sys2Proof

/-- One byte of STORAGE, of a WRITE payload or of READ data (R27, R41). -/
abbrev Byte := BitVec 8

/-- A command word (format C) or a response word (format S): both are exactly 32 bits (R60, R70). -/
abbrev Word := BitVec 32

end Sys2Proof
end

