-- ==== Sys2Proof/Config.lean ====
section
/-! DEFINITION. What one build of the block fixes (the OPEN parameters of 00_scope.md section 3 and R59), the names
of its ports and agents (R15, R17, R135), and the free values: what the spec says holds no value or is unspecified. -/

namespace Sys2Proof

/-- The three ports (R17, R63). A port's role is fixed by the wiring (R132). -/
inductive Port where
  /-- CTRL: CREATE, RELEASE and CAPQ. -/
  | ctrl
  /-- PROD: WRITE. -/
  | prod
  /-- CONS: READ. -/
  | cons
deriving DecidableEq, Repr

/-- The five agents (R15, R135). -/
inductive Agent where
  /-- HOST issues commands on CTRL. -/
  | host
  /-- PROD issues commands on PROD; the source's writer. -/
  | prod
  /-- CONS issues commands on CONS; the source's reader. -/
  | cons
  /-- XW carries published values of WR_PTR to the consumer side. -/
  | xw
  /-- XR carries published values of RD_PTR to the producer side. -/
  | xr
deriving DecidableEq, Repr

/-- The two ports at which the single-agent discipline of R131 and R148 holds. -/
inductive Side where
  | producer
  | consumer
deriving DecidableEq, Repr

/-- CROSSING (R8): whether a published counter is seen by the other side at once. -/
inductive Crossing where
  | sync
  | async
deriving DecidableEq, Repr

/-- The OPEN parameters of one build. They are plain data held in State and no step changes them, so a statement over
every state holds for every build (log entry 1). -/
structure Config where
  /-- `M`, MAX_LOG2_CAP (R7): the physical store holds `2^M` bytes. -/
  maxLog2 : Nat
  /-- CROSSING (R8). -/
  crossing : Crossing
  /-- PLATFORM_MAP (R59, D1): where the ports sit in a larger system; no rule reads it. -/
  platformMap : List (Port × Nat)
deriving DecidableEq, Repr

/-- The legal values of `M` (R7). -/
abbrev Config.wf (cfg : Config) : Prop := 1 ≤ cfg.maxLog2 ∧ cfg.maxLog2 ≤ 23

/-- The build that `State.reset` stands for: the largest store and the crossing the rules are stated for
(DESIGN CHOICE, log entry 1). -/
def Config.standard : Config := { maxLog2 := 23, crossing := .async, platformMap := [] }

/-- What CAP_LOG2 holds while it holds no value (R38, R140): a FREE VALUE of the stamp (log entry 5). -/
opaque Config.freeExponent : Nat → BitVec 5

/-- What WR_PTR, RD_PTR, WR_SEEN and RD_SEEN hold while they hold no value (R38, R140): FREE VALUES, of the stamp and
of an index that tells the four registers apart (log entry 5). -/
opaque Config.freeCounter : Nat → Nat → Nat

/-- What a byte of STORAGE that no WRITE has stored since the last CREATE holds (R27, U7): a FREE VALUE of the stamp
and the offset (log entry 6). -/
opaque Config.freeByte : Nat → Nat → Byte

end Sys2Proof
end

