-- ==== Sys2Proof/Syntax.lean ====
section
/-! DEFINITION. The commands of RBC-CMD version 1, one constructor per row of the opcode map (R2, R63). -/

namespace Sys2Proof

/-- A decoded command. Its operand is the number the 24-bit argument field holds (R62); the payload of a WRITE travels
beside the word on the data-in channel and is no part of the command (R68). -/
inductive Instr where
  /-- CREATE (R81): construct an instance of at least `req` bytes. -/
  | create (req : Nat)
  /-- RELEASE (R110): end the live instance. -/
  | release
  /-- CAPQ (R84): answer the capacity. -/
  | capq
  /-- WRITE (R91): offer `len` payload bytes. -/
  | write (len : Nat)
  /-- READ (R101): take at most `len` bytes. -/
  | read (len : Nat)
deriving DecidableEq, Repr

end Sys2Proof
end

