-- ==== Sys2Proof/WellFormed.lean ====
section
/-! DEFINITION. Which commands have an encoding: the argument is a 24-bit unsigned number (R9, R62). -/

namespace Sys2Proof

/-- `ARG_W = 24` (R9): the argument field holds a number from 0 to `2^24 - 1` (R62). -/
abbrev argFits (arg : Nat) : Prop := arg < 2 ^ 24

/-- The command has an encoding (R61, R62). -/
def Instr.wellFormed : Instr → Bool
  | .create req => decide (argFits req)
  | .release => true
  | .capq => true
  | .write len => decide (argFits len)
  | .read len => decide (argFits len)

end Sys2Proof
end

