-- ==== Sys2Proof/Decode.lean ====
section
/-! DEFINITION. Format C (R61), the opcode map (R63), the decoder of R69, total on all words and rejecting by name, the
encoder written from the same map, and the byte order of a serialised word (R41). -/

namespace Sys2Proof

/-! ## Fields of the command word -/

/-- `op = word[31:28]` (R61). -/
def opField (w : Word) : BitVec 4 := w.extractLsb' 28 4

/-- `rsvd = word[27:24]` (R61). -/
def rsvdField (w : Word) : BitVec 4 := w.extractLsb' 24 4

/-- `arg = word[23:0]` (R61, R62). -/
def argField (w : Word) : BitVec 24 := w.extractLsb' 0 24

/-- A word of format C with `rsvd = 0` (R61). -/
def commandWord (op : BitVec 4) (arg : Nat) : Word := (op ++ (0#4) ++ BitVec.ofNat 24 arg : BitVec 32)

/-! ## The opcode map -/

/-- The opcode of each command (R63). -/
def Instr.opcode : Instr → BitVec 4
  | .create _ => 0x1#4
  | .release => 0x2#4
  | .capq => 0x3#4
  | .write _ => 0x4#4
  | .read _ => 0x5#4

/-- The argument of each command; RELEASE and CAPQ have none and carry 0 (R62). -/
def Instr.arg : Instr → Nat
  | .create req => req
  | .release => 0
  | .capq => 0
  | .write len => len
  | .read len => len

/-- The one port that accepts each command (R63, R132). -/
def Instr.port : Instr → Port
  | .create _ => .ctrl
  | .release => .ctrl
  | .capq => .ctrl
  | .write _ => .prod
  | .read _ => .cons

/-! ## The decoder -/

/-- Why a word is ILLEGAL (R64, R65). The block answers all of them alike (R125). -/
inductive Illegal where
  /-- `rsvd != 0`. -/
  | reservedField
  /-- `op` is one of the 11 reserved values `0x0`, `0x6` to `0xF`. -/
  | reservedOpcode
  /-- RELEASE or CAPQ with `arg != 0`. -/
  | nonzeroArgument
  /-- A legal command on a port that does not accept it (R64). -/
  | wrongPort
  /-- Fewer than four bytes: no word has another length (R70). -/
  | truncated
deriving DecidableEq, Repr

/-- The part of R69 that does not look at the port: reserved field first, then the opcode, then the zero argument. -/
def decodeWord (w : Word) : Except Illegal Instr :=
  if rsvdField w ≠ 0#4 then .error .reservedField
  else if opField w = 0x1#4 then .ok (.create (argField w).toNat)
  else if opField w = 0x2#4 then
    if argField w ≠ 0#24 then .error .nonzeroArgument else .ok .release
  else if opField w = 0x3#4 then
    if argField w ≠ 0#24 then .error .nonzeroArgument else .ok .capq
  else if opField w = 0x4#4 then .ok (.write (argField w).toNat)
  else if opField w = 0x5#4 then .ok (.read (argField w).toNat)
  else .error .reservedOpcode

/-- R69: the decoder of a port, total on all `2^32` words. -/
def decode (p : Port) (w : Word) : Except Illegal Instr :=
  match decodeWord w with
  | .error e => .error e
  | .ok i => if p = i.port then .ok i else .error .wrongPort

/-! ## The encoder -/

/-- The command word of a command (R61, R63, R74). -/
def encode (i : Instr) : Word := commandWord i.opcode i.arg

/-- The value of the row's `match` in the opcode map (R63). -/
def Instr.rowMatch (i : Instr) : Word := i.opcode ++ 0#28

/-- The value of the row's `mask` in the opcode map (R63): all 32 bits where the argument must be 0. -/
def Instr.rowMask : Instr → Word
  | .create _ => 0xFF000000#32
  | .release => 0xFFFFFFFF#32
  | .capq => 0xFFFFFFFF#32
  | .write _ => 0xFF000000#32
  | .read _ => 0xFF000000#32

/-! ## Bytes -/

/-- A transport that serialises a word sends its least significant byte first (R41, D15). -/
def bytesOfWord (w : Word) : List Byte :=
  [w.extractLsb' 0 8, w.extractLsb' 8 8, w.extractLsb' 16 8, w.extractLsb' 24 8]

/-- The word whose serialised bytes are `b0` to `b3`, in that order (R41, D15). -/
def wordOfBytes (b0 b1 b2 b3 : Byte) : Word := (b3 ++ b2 ++ b1 ++ b0 : BitVec 32)

/-- Decode the word at the head of a serialised command stream; total on any bytes. -/
def decodeBytes (p : Port) : List Byte → Except Illegal (Instr × List Byte)
  | b0 :: b1 :: b2 :: b3 :: rest =>
    match decode p (wordOfBytes b0 b1 b2 b3) with
    | .ok i => .ok (i, rest)
    | .error e => .error e
  | _ => .error .truncated

/-- The port a word is for: the one of the opcode map for its `op`; CTRL for a reserved `op`, whose word is ILLEGAL on
every port (R63, R65). -/
def portOfWord (w : Word) : Port :=
  if opField w = 0x4#4 then .prod else if opField w = 0x5#4 then .cons else .ctrl

/-- The table's numbering of an instruction's bits is that of the command word itself: one 32-bit word, bit 0 its
least significant bit (R13, R61). -/
def tableWord (nbits w : Nat) : Word := BitVec.ofNat 32 (w % 2 ^ nbits)

/-- The command the decoder reads from a word given in the opcode table's numbering. No command is longer than 32 bits
(R70). -/
def decodeTableWord (nbits w : Nat) : Option Instr :=
  if 32 < nbits then none
  else
    let word := tableWord nbits w
    match decodeBytes (portOfWord word) (bytesOfWord word) with
    | .ok (i, _) => some i
    | .error _ => none

end Sys2Proof
end

