-- ==== Sys2Proof/Machine/State.lean ====
section
/-! DEFINITION. The complete state (R37 and R33, R34), the agents' streams and the schedule, the two ways a run can
stop, and the state after hardware reset (R140). -/

namespace Sys2Proof.Machine

/-! ## Ports and transactions -/

/-- A command transaction: a word and its payload bytes (R60, R68). -/
structure Transaction where
  word : Word
  payload : List Byte
deriving DecidableEq, Repr

/-- A response transaction: a response word and its data bytes (R60, R68). -/
structure Response where
  word : Word
  data : List Byte
deriving DecidableEq, Repr

/-- `IDLE` or `BUSY(cmd)` (R33). The port holds the transaction; its command is `decode` of the word (log entry 11). -/
inductive PortState where
  | idle
  | busy (t : Transaction)
deriving DecidableEq, Repr

/-- A port with its agent: the port's state (R33), the commands its agent has not issued yet (R21) and the responses
delivered to the agent, oldest first (R66). -/
structure PortUnit where
  state : PortState
  stream : List Transaction
  responses : List Response
deriving DecidableEq, Repr

/-- A port with no command outstanding, no command to come and no response yet. -/
def PortUnit.empty : PortUnit := { state := .idle, stream := [], responses := [] }

/-! ## The schedule -/

/-- One thing that can happen next. Which one does is left open (R15, R127); State holds the choice as data
(log entry 2). -/
inductive Event where
  /-- An agent's own step: a port agent issues (R33), a crossing agent delivers (R47). -/
  | agent (a : Agent)
  /-- The agent of a port decides on one more command, which goes to the end of its stream (R21, R151, log entry 25). -/
  | extend (p : Port) (t : Transaction)
  /-- The controller executes the command of a port (R33, R127). -/
  | execute (p : Port)
  /-- Hardware reset (R140). -/
  | hardwareReset
  /-- An attempt to attach a second agent to PROD or CONS (R131). -/
  | attachSecond (side : Side)
deriving DecidableEq, Repr

/-! ## How a run stops -/

/-- The faults of R121 and R124, each with the port and the word that the fault mark records, and one of the model's
own. -/
inductive Fault where
  /-- Raised by WRITE, READ, CAPQ and RELEASE while `LIVE = 0`. Safe: the hardware may do anything. -/
  | notLive (port : Port) (word : Word)
  /-- Raised by CREATE while `LIVE = 1` (R83). Safe: the hardware may do anything. -/
  | createWhileLive (port : Port) (word : Word)
  /-- Raised by RELEASE while PROD or CONS is BUSY (R111). Safe: the hardware may do anything. -/
  | releaseWhileBusy (port : Port) (word : Word)
  /-- Raised by WRITE and READ when the computed occupancy exceeds the capacity (R30). Safe: no run reaches it. -/
  | invariantBroken (port : Port) (word : Word)
  /-- The model's own: raised by WRITE and READ for an offset past the `2^M` bytes of the physical store (R27,
  log entry 7). Safe: no run reaches it, because `K <= M` while live. -/
  | outsideStore (port : Port) (word : Word)
deriving DecidableEq, Repr

/-- The refusals of R121 and R131. -/
inductive Refusal where
  /-- A transaction that breaks the payload rule of R68; raised when the agent issues it and by WRITE. Safe. -/
  | payloadMismatch (port : Port) (word : Word)
  /-- A second agent on PROD or CONS (R131); raised by the attempt to attach it. Safe. -/
  | extraAgent (port : Port)
  /-- An instruction without a meaning yet; raised by `exec` alone. Safe. -/
  | notModelled (mnemonic : String)
deriving DecidableEq, Repr

/-! ## Memory and state -/

/-- The listed bytes of STORAGE: offsets strictly rising; an unlisted offset holds no value (R27, log entry 6). -/
abbrev Memory := List Host.Cell

/-- The canonical form: offsets strictly rising. An unlisted offset holds no value, so no entry can equal it. -/
abbrev Memory.wf (m : Memory) : Prop := m.Pairwise (fun x y => x.1 < y.1)

/-- The state of R37, with the model's own fields last. Counters are natural numbers kept in range by the operations
that write them (R9, log entry 8). -/
structure State where
  /-- The OPEN parameters (R7, R8, R59); no step changes them. -/
  cfg : Config
  /-- `LIVE` (R23). -/
  live : Bool
  /-- `CAP_LOG2`, 5 bits: the capacity is `c = 2^K` (R24). -/
  capLog2 : BitVec 5
  /-- `WR_PTR`, `M+2` bits: the write counter (R25). -/
  wrPtr : Nat
  /-- `RD_PTR`, `M+1` bits: the read counter (R26). -/
  rdPtr : Nat
  /-- `STORAGE` (R27). -/
  storage : Memory
  /-- `RD_SEEN`, `M+1` bits: the producer side's snapshot of RD_PTR (R28). -/
  rdSeen : Nat
  /-- `WR_SEEN`, `M+2` bits: the consumer side's snapshot of WR_PTR (R28). -/
  wrSeen : Nat
  /-- `Q_W`: WR_PTR values published and not yet delivered, oldest first (R28). -/
  qW : List Nat
  /-- `Q_R`: RD_PTR values published and not yet delivered, oldest first (R28). -/
  qR : List Nat
  /-- The CTRL port and HOST (R33, R135). -/
  ctrl : PortUnit
  /-- The PROD port and the producer (R33, R135). -/
  prod : PortUnit
  /-- The CONS port and the consumer (R33, R135). -/
  cons : PortUnit
  /-- The sticky fault mark (R34, R124). -/
  faultMark : Option Fault
  /-- The sticky refusal mark (R34, R131). -/
  refusalMark : Option Refusal
  /-- The model's own: what happens next, in order (R127, log entry 2). -/
  agenda : List Event
  /-- The model's own: the stamp the free values are drawn with (log entries 5 and 6). -/
  freeStamp : Nat
  /-- Ghost: the bytes accepted by WRITE since the last CREATE; the ghost counter `W` is its length (R29). -/
  accepted : List Byte
  /-- Ghost: the bytes delivered by READ since the last CREATE; the ghost counter `R` is its length (R29). -/
  delivered : List Byte
deriving DecidableEq, Repr

/-- The state after hardware reset of a build (R37, R140). The registers that hold no value there are at 0
(DESIGN CHOICE, log entry 4). -/
def State.resetWith (cfg : Config) : State :=
  { cfg := cfg, live := false, capLog2 := 0#5, wrPtr := 0, rdPtr := 0, storage := [], rdSeen := 0, wrSeen := 0,
    qW := [], qR := [], ctrl := PortUnit.empty, prod := PortUnit.empty, cons := PortUnit.empty,
    faultMark := none, refusalMark := none, agenda := [], freeStamp := 0, accepted := [], delivered := [] }

/-- The state after hardware reset of the standard build (log entry 1). -/
def State.reset : State := State.resetWith Config.standard

end Sys2Proof.Machine
end

