-- ==== Sys2Proof/Machine/Ops.lean ====
section
/-! DEFINITION. The shared operations: storage, registers, publication and sampling of the counters, responses, raising
a fault, construction and the loss of an instance, the agents' own steps and hardware reset. -/

namespace Sys2Proof.Machine

/-- What a command or a step answers. -/
abbrev Result := Host.Outcome State Fault Refusal

/-! ## Arithmetic (R12) -/

/-- `(a - b) mod m`, the difference taken in the integers before the reduction (R12). -/
def modSub (a b m : Nat) : Nat := (((a : Int) - (b : Int)) % (m : Int)).toNat

/-- The first exponent from `k` on whose power of two reaches `x`, looked for `fuel` times. -/
def leastExponent : Nat → Nat → Nat → Nat
  | 0, k, _ => k
  | fuel + 1, k, x => if x ≤ 2 ^ k then k else leastExponent fuel (k + 1) x

/-- `log2` of `cap_round(req)` (R80): exponents are tried from 1, so the result is at least 2; `x <= 2^x` bounds the
search. -/
def capRoundLog2 (req : Nat) : Nat := leastExponent req 1 req

/-- `cap_round(req)` (R80), on unbounded naturals (D31). -/
def capRound (req : Nat) : Nat := 2 ^ capRoundLog2 req

/-! ## Storage (R40, R43) -/

/-- What an unlisted offset holds: no value (R27, D14, log entry 6). -/
def Memory.unlisted : Option Byte := none

/-- The byte listed at an offset. -/
def Memory.read? : Memory → Nat → Option Byte
  | [], _ => Memory.unlisted
  | (a, b) :: m, off => if off = a then some b else Memory.read? m off

/-- `MemWrite(off, 1, b)` (R14): insert in order, or replace. -/
def Memory.write : Memory → Nat → Byte → Memory
  | [], off, b => [(off, b)]
  | (a, x) :: m, off, b =>
    if off < a then (off, b) :: (a, x) :: m
    else if off = a then (off, b) :: m
    else (a, x) :: Memory.write m off b

/-- Several `MemWrite`s in order, each an offset and its byte. -/
def Memory.writeAll : Memory → List (Nat × Byte) → Memory
  | m, [] => m
  | m, (off, b) :: rest => Memory.writeAll (m.write off b) rest

/-- The offsets of a transfer of `n` bytes from `start` (R40): `off_i = (start + i) mod c`, in that order. -/
def transferOffsets (c start n : Nat) : List Nat := (List.range n).map fun i => (start + i) % c

/-- The bytes of a transfer before the physical end (R16, R40). -/
def firstChunk (c start n : Nat) : Nat := if start + n > c then c - start else n

/-- The bytes of a transfer after the physical end; 0 when it does not straddle it (R16, R40, D27). -/
def secondChunk (c start n : Nat) : Nat := if start + n > c then start + n - c else 0

/-- Store bytes at offsets; `none` when an offset is outside a physical store of `size` bytes (R27). -/
def Memory.storeAt (m : Memory) (size : Nat) (offs : List Nat) (bytes : List Byte) : Option Memory :=
  if offs.all (fun off => decide (off < size)) then some (m.writeAll (offs.zip bytes)) else none

/-- `MemRead(off, 1)` (R14): the listed byte, or a free value of the stamp where the offset holds none (U7). -/
def Memory.byteAt (m : Memory) (stamp off : Nat) : Byte := (m.read? off).getD (Config.freeByte stamp off)

/-- Read the bytes at offsets; `none` when an offset is outside a physical store of `size` bytes (R27). -/
def Memory.loadAt (m : Memory) (size stamp : Nat) (offs : List Nat) : Option (List Byte) :=
  if offs.all (fun off => decide (off < size)) then some (offs.map (m.byteAt stamp)) else none

/-! ## Registers -/

/-- The capacity `c = 2^K` of the live instance (R6, R24). -/
def State.cap (s : State) : Nat := 2 ^ s.capLog2.toNat

/-- The size of the physical store, `2^M` bytes (R7, R27). -/
def State.storeSize (s : State) : Nat := 2 ^ s.cfg.maxLog2

/-- A value as WR_PTR, WR_SEEN and the elements of Q_W hold it: `M+2` bits (R9, R25, R28). -/
def wrWidth (cfg : Config) (v : Nat) : Nat := v % 2 ^ (cfg.maxLog2 + 2)

/-- A value as RD_PTR, RD_SEEN and the elements of Q_R hold it: `M+1` bits (R9, R26, R28). -/
def rdWidth (cfg : Config) (v : Nat) : Nat := v % 2 ^ (cfg.maxLog2 + 1)

/-- `sample(RD_PTR)`, taken by WRITE (R46). -/
def State.sampleRd (s : State) : Nat := s.rdSeen

/-- `sample(WR_PTR)`, taken by READ (R46). -/
def State.sampleWr (s : State) : Nat := s.wrSeen

/-- `publish(WR_PTR, v)` (R45): the counter, then the queue of an ASYNC crossing or the snapshot of a SYNC one. -/
def State.publishWr (s : State) (v : Nat) : State :=
  let v := wrWidth s.cfg v
  match s.cfg.crossing with
  | .async => { s with wrPtr := v, qW := s.qW ++ [v] }
  | .sync => { s with wrPtr := v, wrSeen := v }

/-- `publish(RD_PTR, v)` (R45). -/
def State.publishRd (s : State) (v : Nat) : State :=
  let v := rdWidth s.cfg v
  match s.cfg.crossing with
  | .async => { s with rdPtr := v, qR := s.qR ++ [v] }
  | .sync => { s with rdPtr := v, rdSeen := v }

/-- A port made IDLE with its outstanding command, if there is one, again the next of its stream, so that it is still
executed and answered once and in its place (R21, R127, log entry 14). -/
def PortUnit.withdrawn (u : PortUnit) : PortUnit :=
  match u.state with
  | .idle => u
  | .busy t => { u with state := .idle, stream := t :: u.stream }

/-- The state registers and queues of a new instance of capacity `2^k` (R81, R141). STORAGE holds no value: its listed
bytes go and the stamp moves on (R27, log entry 6). Every port is IDLE after CREATE (R33, R37): a command outstanding on
PROD or CONS goes back to the head of its stream (log entry 14), and CTRL, whose command this is, is answered. The ghosts
restart (R29). -/
def State.construct (s : State) (k : Nat) : State :=
  let c := 2 ^ k
  { s with
    capLog2 := BitVec.ofNat 5 k
    rdPtr := 0
    wrPtr := wrWidth s.cfg (2 * c)
    rdSeen := 0
    wrSeen := wrWidth s.cfg (2 * c)
    qW := []
    qR := []
    storage := []
    freeStamp := s.freeStamp + 1
    prod := s.prod.withdrawn
    cons := s.cons.withdrawn
    accepted := []
    delivered := []
    live := true }

/-- The loss of the instance, at RELEASE (R38, R110) and at hardware reset (R140): `LIVE = 0`, the queues and the
unread bytes are discarded (U16), and what holds no value holds a free value of the stamp (log entry 5). The ghosts
count since the last CREATE, so they stay (R29). -/
def State.dropInstance (s : State) : State :=
  { s with
    live := false
    capLog2 := Config.freeExponent s.freeStamp
    wrPtr := wrWidth s.cfg (Config.freeCounter s.freeStamp 0)
    rdPtr := rdWidth s.cfg (Config.freeCounter s.freeStamp 1)
    wrSeen := wrWidth s.cfg (Config.freeCounter s.freeStamp 2)
    rdSeen := rdWidth s.cfg (Config.freeCounter s.freeStamp 3)
    qW := []
    qR := []
    storage := []
    freeStamp := s.freeStamp + 1 }

/-! ## Ports and responses -/

/-- The unit of a port. -/
def State.port (s : State) : Port → PortUnit
  | .ctrl => s.ctrl
  | .prod => s.prod
  | .cons => s.cons

/-- Replace the unit of a port. -/
def State.setPort (s : State) (p : Port) (u : PortUnit) : State :=
  match p with
  | .ctrl => { s with ctrl := u }
  | .prod => { s with prod := u }
  | .cons => { s with cons := u }

/-- The status codes (R67). -/
inductive Status where
  | ok
  | wouldBlock
  | allocFail
  | illegal
deriving DecidableEq, Repr

/-- The code of a status (R67); `0x4` to `0xF` are never produced (U13). -/
def Status.code : Status → BitVec 4
  | .ok => 0x0#4
  | .wouldBlock => 0x1#4
  | .allocFail => 0x2#4
  | .illegal => 0x3#4

/-- Format S (R66): `status`, `0b0000`, `value`. -/
def responseWord (st : Status) (value : Nat) : Word := (st.code ++ (0#4) ++ BitVec.ofNat 24 value : BitVec 32)

/-- A port after its command has completed: `IDLE`, with the response delivered (R33, R66). -/
def PortUnit.answer (u : PortUnit) (st : Status) (value : Nat) (data : List Byte) : PortUnit :=
  { u with state := .idle, responses := u.responses ++ [{ word := responseWord st value, data := data }] }

/-- `respond(status, value, bytes)` on a port (R14, R33, R66). -/
def State.respond (s : State) (p : Port) (st : Status) (value : Nat) (data : List Byte) : State :=
  s.setPort p ((s.port p).answer st value data)

/-! ## Faults (R124) -/

/-- `raise Fault(kind)` by a command (R124): the run ends, with the port and the word the fault mark records. The block
has no trap, no handler and no return from one (R120, R129, R130). -/
def raise (kind : Port → Word → Fault) (i : Instr) : Result := .fault (kind i.port (encode i))

/-- The fault codes of R121; `outsideStore` is the model's own and has none. -/
def Fault.code : Fault → Option Nat
  | .notLive _ _ => some 1
  | .createWhileLive _ _ => some 2
  | .releaseWhileBusy _ _ => some 3
  | .invariantBroken _ _ => some 4
  | .outsideStore _ _ => none

/-- The refusal codes of R121; a refusal of the model's own has none. -/
def Refusal.code : Refusal → Option Nat
  | .payloadMismatch _ _ => some 1
  | .extraAgent _ => some 2
  | _ => none

/-- The fault mark: the first fault raised stays (R34, R124). -/
def State.recordFault (s : State) (f : Fault) : State := { s with faultMark := some (s.faultMark.getD f) }

/-- The refusal mark: the first refusal stays (R34, R131). -/
def State.recordRefusal (s : State) (r : Refusal) : State := { s with refusalMark := some (s.refusalMark.getD r) }

/-! ## Hardware reset and the crossing -/

/-- Hardware reset (R140): no instance, every port IDLE with its outstanding command discarded and no response. The
marks, the agents' streams and what was delivered to them stay (R34, log entry 17). -/
def State.hardwareReset (s : State) : State :=
  let t := s.dropInstance
  { t with
    ctrl := { t.ctrl with state := .idle }
    prod := { t.prod with state := .idle }
    cons := { t.cons with state := .idle } }

/-- The step of XW (R47): deliver the head of Q_W to WR_SEEN. Without a crossing agent or a queued value, nothing. -/
def State.stepXW (s : State) : State :=
  match s.cfg.crossing, s.qW with
  | .async, v :: rest => { s with wrSeen := v, qW := rest }
  | _, _ => s

/-- The step of XR (R47): deliver the head of Q_R to RD_SEEN. -/
def State.stepXR (s : State) : State :=
  match s.cfg.crossing, s.qR with
  | .async, v :: rest => { s with rdSeen := v, qR := rest }
  | _, _ => s

end Sys2Proof.Machine
end

