-- ==== Sys2Proof/Machine/Operands.lean ====
section
/-! DEFINITION. The two operand forms of the block (R20): the 24-bit argument, which decoding assembles (R62), and the
payload of a WRITE (R68, R90); and the issue step, which checks the payload (R126). -/

namespace Sys2Proof.Machine

/-- How many payload bytes a transaction with this word carries on this port (R68): `len` for a WRITE, which only PROD
accepts; none for every other word (log entry 12). -/
def payloadLength (p : Port) (w : Word) : Nat :=
  match decode p w with
  | .ok (.write len) => len
  | _ => 0

/-- The transaction is well formed on the port (R68). -/
def Transaction.wellFormed (p : Port) (t : Transaction) : Bool := decide (t.payload.length = payloadLength p t.word)

/-- The payload on the data-in channel of a port (R68). -/
def PortUnit.payload (u : PortUnit) : List Byte :=
  match u.state with
  | .busy t => t.payload
  | .idle => []

/-- The issue step of a port agent (R33): the next transaction of its stream moves the port from IDLE to BUSY, after
the payload check (R126, step 1). A BUSY port accepts nothing, and an exhausted stream issues nothing. -/
def State.issue (s : State) (p : Port) : Result :=
  match (s.port p).state, (s.port p).stream with
  | .idle, t :: rest =>
    if t.wellFormed p then .next (s.setPort p { (s.port p) with state := .busy t, stream := rest })
    else .refused (.payloadMismatch p t.word)
  | _, _ => .next s

/-- One more command at the end of the stream of a port's agent (R21, log entry 25). -/
def State.extend (s : State) (p : Port) (t : Transaction) : State :=
  s.setPort p { (s.port p) with stream := (s.port p).stream ++ [t] }

/-- An agent's own step (R15, R135). -/
def State.agentStep (s : State) : Agent → Result
  | .host => s.issue .ctrl
  | .prod => s.issue .prod
  | .cons => s.issue .cons
  | .xw => .next s.stepXW
  | .xr => .next s.stepXR

end Sys2Proof.Machine
end

