-- ==== Sys2Proof/Machine/Flags.lean ====
section
/-! DEFINITION. The block has no flag register (R22). What stands in its place is computed here: the occupancy a side
sees, and the states derived from it (R30, R31). -/

namespace Sys2Proof.Machine

/-- `(write - read) mod 2c` (R16, R30). -/
def occupancy (c wr rd : Nat) : Nat := modSub wr rd (2 * c)

/-- The occupancy of the instance (R30). -/
def State.occ (s : State) : Nat := occupancy s.cap s.wrPtr s.rdPtr

/-- The occupancy as the producer's snapshot shows it (R91, step 2). -/
def State.occProducer (s : State) : Nat := occupancy s.cap s.wrPtr s.sampleRd

/-- The occupancy as the consumer's snapshot shows it (R101). -/
def State.occConsumer (s : State) : Nat := occupancy s.cap s.sampleWr s.rdPtr

/-- Free space as the producer's snapshot shows it (R16, R91). -/
def State.freeProducer (s : State) : Nat := s.cap - s.occProducer

/-- The occupancy states, derived and not stored (R31). -/
inductive Fill where
  | empty
  | partly
  | full
deriving DecidableEq, Repr

/-- The occupancy state of an occupancy `occ` in a capacity `c` (R31). -/
def fillOf (c occ : Nat) : Fill := if occ = 0 then .empty else if occ = c then .full else .partly

/-- The occupancy state of the instance (R31). -/
def State.fill (s : State) : Fill := fillOf s.cap s.occ

/-- The write counter after `n >= 1` bytes from `wp` (R95): folded at `4c` to `2c + second`. -/
def foldWr (c wp n : Nat) : Nat :=
  if wp + n ≥ 4 * c then 2 * c + secondChunk c (wp % c) n else wp + n

/-- The read counter after `n >= 1` bytes from `rp` (R104): folded at `2c` to `second`. -/
def foldRd (c rp n : Nat) : Nat :=
  if rp + n ≥ 2 * c then secondChunk c (rp % c) n else rp + n

/-- The offset belongs to the consumer (R32): it holds a written, unread byte. -/
def State.consumerOwns (s : State) (off : Nat) : Prop :=
  ∃ j, s.delivered.length ≤ j ∧ j < s.accepted.length ∧ off = j % s.cap

end Sys2Proof.Machine
end

