-- ==== Sys2Proof/Machine/Construction.lean ====
section
/-! DEFINITION. The meanings of CREATE (R81) and CAPQ (R84). -/

namespace Sys2Proof.Machine

/-- CREATE (R81, R82, R83): a live instance faults; a rounded capacity past the store answers ALLOC_FAIL and changes
nothing; otherwise the new instance is constructed. Every port is IDLE after it (R33, R37). -/
def execCreate (req : Nat) (s : State) : Result :=
  if s.live then raise .createWhileLive (.create req)
  else if capRound req > s.storeSize then .next (s.respond .ctrl .allocFail 0 [])
  else .next ((s.construct (capRoundLog2 req)).respond .ctrl .ok (capRound req) [])

/-- CAPQ (R84): answer the capacity; no state is written. -/
def execCapq (s : State) : Result :=
  if s.live then .next (s.respond .ctrl .ok s.cap [])
  else raise .notLive .capq

end Sys2Proof.Machine
end

