-- ==== Sys2Proof/Machine/Destruction.lean ====
section
/-! DEFINITION. The meaning of RELEASE (R110). -/

namespace Sys2Proof.Machine

/-- RELEASE (R110, R111, R112): not live faults, then an outstanding producer or consumer command faults; otherwise the
instance ends and what is left in it is discarded. -/
def execRelease (s : State) : Result :=
  if !s.live then raise .notLive .release
  else if s.prod.state ≠ .idle ∨ s.cons.state ≠ .idle then raise .releaseWhileBusy .release
  else .next (s.dropInstance.respond .ctrl .ok 0 [])

end Sys2Proof.Machine
end

