-- ==== Sys2Proof/Machine/Read.lean ====
section
/-! DEFINITION. The meaning of READ (R101), executed as one atomic step (R53). -/

namespace Sys2Proof.Machine

/-- The bytes a READ of `len` moves: `min(occ, len)` (R101). -/
def State.readCount (s : State) (len : Nat) : Nat := min s.occConsumer len

/-- The offsets a READ of `len` reads from (R40, R101). -/
def State.readOffsets (s : State) (len : Nat) : List Nat :=
  transferOffsets s.cap (s.rdPtr % s.cap) (s.readCount len)

/-- READ (R101 to R105), its checks in the order of R126. -/
def execRead (len : Nat) (s : State) : Result :=
  if !s.live then raise .notLive (.read len)
  else if len = 0 then .next (s.respond .cons .ok 0 [])
  else if s.occConsumer > s.cap then raise .invariantBroken (.read len)
  else if s.occConsumer = 0 then .next (s.respond .cons .wouldBlock 0 [])
  else
    let n := s.readCount len
    match s.storage.loadAt s.storeSize s.freeStamp (s.readOffsets len) with
    | none => raise .outsideStore (.read len)
    | some bytes =>
      let t := { s with delivered := s.delivered ++ bytes }
      .next ((t.publishRd (foldRd s.cap s.rdPtr n)).respond .cons .ok n bytes)

end Sys2Proof.Machine
end

