-- ==== Sys2Proof/Machine/Write.lean ====
section
/-! DEFINITION. The meaning of WRITE (R91), executed as one atomic step (R53). -/

namespace Sys2Proof.Machine

/-- The bytes a WRITE of `len` moves: `min(free, len)` (R91, step 4). -/
def State.writeCount (s : State) (len : Nat) : Nat := min s.freeProducer len

/-- The offsets a WRITE of `len` stores to (R40, R91). -/
def State.writeOffsets (s : State) (len : Nat) : List Nat :=
  transferOffsets s.cap (s.wrPtr % s.cap) (s.writeCount len)

/-- WRITE (R91 to R96), its checks in the order of R126. The payload has exactly `len` bytes (R90, log entry 13). -/
def execWrite (len : Nat) (s : State) : Result :=
  if s.prod.payload.length ≠ len then .refused (.payloadMismatch .prod (encode (.write len)))
  else if !s.live then raise .notLive (.write len)
  else if len = 0 then .next (s.respond .prod .ok 0 [])
  else if s.occProducer > s.cap then raise .invariantBroken (.write len)
  else if s.freeProducer = 0 then .next (s.respond .prod .wouldBlock 0 [])
  else
    let n := s.writeCount len
    let bytes := s.prod.payload.take n
    match s.storage.storeAt s.storeSize (s.writeOffsets len) bytes with
    | none => raise .outsideStore (.write len)
    | some m =>
      let t := { s with storage := m, accepted := s.accepted ++ bytes }
      .next ((t.publishWr (foldWr s.cap s.wrPtr n)).respond .prod .ok n [])

end Sys2Proof.Machine
end

