-- ==== Sys2Proof/Machine/Dispatch.lean ====
section
/-! DEFINITION. One arm per command: its meaning (R2, R63). -/

namespace Sys2Proof.Machine

def exec (i : Instr) (s : State) : Host.Outcome State Fault Refusal :=
  match i with
  | .create req => Sys2Proof.Machine.execCreate req s
  | .release => Sys2Proof.Machine.execRelease s
  | .capq => Sys2Proof.Machine.execCapq s
  | .write len => Sys2Proof.Machine.execWrite len s
  | .read len => Sys2Proof.Machine.execRead len s

end Sys2Proof.Machine
end

