-- ==== Sys2Proof/Machine/Controller.lean ====
section
/-! DEFINITION. The controller: executing the command of a port (R33, R127), one event of the schedule, and where the
host places a command to be fetched. -/

namespace Sys2Proof.Machine

/-- The controller's execute step on a port (R33): a BUSY port's word is decoded before every other rule (R69); an
ILLEGAL word is answered and nothing else changes (R125); a command runs. An IDLE port has nothing to execute. -/
def State.executePort (s : State) (p : Port) : Result :=
  match (s.port p).state with
  | .idle => .next s
  | .busy t =>
    match decode p t.word with
    | .error _ => .next (s.respond p .illegal 0 [])
    | .ok i => exec i s

/-- The port of a side (R131). -/
def sidePort : Side → Port
  | .producer => .prod
  | .consumer => .cons

/-- The event gives an agent more to do: a further command, or a second agent (R150, log entry 25). -/
def Event.bringsWork : Event → Bool
  | .extend _ _ => true
  | .attachSecond _ => true
  | .agent _ => false
  | .execute _ => false
  | .hardwareReset => false

/-- One event of the schedule (R15, R21, R127, R131, R140). -/
def State.runEvent (s : State) : Event → Result
  | .agent a => s.agentStep a
  | .extend p t => .next (s.extend p t)
  | .execute p => s.executePort p
  | .hardwareReset => .next s.hardwareReset
  | .attachSecond side => .refused (.extraAgent (sidePort side))

/-- The transaction of a word that a well-formed issue would leave in a port: a WRITE with `len` zero bytes, every
other word with no payload (R68). -/
def fetchTransaction (p : Port) (w : Word) : Transaction :=
  { word := w, payload := List.replicate (payloadLength p w) 0#8 }

/-- The state with the word outstanding on the port it is for, and its execution the next event (log entry 3). -/
def State.placeWord (s : State) (w : Word) : State :=
  let p := portOfWord w
  let t := s.setPort p { (s.port p) with state := .busy (fetchTransaction p w) }
  { t with agenda := .execute p :: s.agenda }

end Sys2Proof.Machine
end

