-- ==== Sys2Proof/Machine/Step.lean ====
section
/-! DEFINITION. One step of the machine: the next event of the schedule, unless the run has ended (R14, R34). -/

namespace Sys2Proof.Machine

/-- One step. A run with a mark set has ended: it answers that mark again, and no step clears it (R34, R124, R131,
log entry 10). With nothing scheduled, nothing happens (log entry 2). -/
def step (s : State) : Host.Outcome State Fault Refusal :=
  match s.faultMark, s.refusalMark with
  | some f, _ => .fault f
  | none, some r => .refused r
  | none, none =>
    match s.agenda with
    | [] => .next s
    | e :: rest => State.runEvent { s with agenda := rest } e

/-- The state whose next step executes the word given in the opcode table's numbering (log entry 3). -/
def State.withFetchWord (s : State) (nbits w : Nat) : State := s.placeWord (tableWord nbits w)

end Sys2Proof.Machine
end

