-- ==== Sys2Proof/Machine/Run.lean ====
section
/-! DEFINITION. Runs: the marks as states carry them (R34), the two launch states (R142), and a run under a schedule
that is given from outside, for what the spec says of all schedules (R52). -/

namespace Sys2Proof.Machine

/-- One step as a state sees it: a fault or a refusal is recorded in its mark and changes nothing else (R34, R124,
R131, log entry 10). -/
def State.advance (s : State) : State :=
  match step s with
  | .next t => t
  | .fault f => s.recordFault f
  | .refused r => s.recordRefusal r

/-- A launch (R142): the agents' streams and the schedule are loaded from outside the machine (log entry 3). -/
def State.load (s : State) (host prod cons : List Transaction) (agenda : List Event) : State :=
  { s with
    ctrl := { s.ctrl with stream := host }
    prod := { s.prod with stream := prod }
    cons := { s.cons with stream := cons }
    agenda := agenda }

/-- The fresh instance (R142): the reset state followed by one `CREATE(req)`; `none` unless it is answered OK. -/
def State.fresh (cfg : Config) (req : Nat) : Option State :=
  match execCreate req (State.resetWith cfg) with
  | .next s => if s.live then some s else none
  | _ => none

/-- A schedule of every moment: what happens next, for ever. It is no part of State; a statement may range over all of
them (R127). -/
abbrev Schedule := Nat → Event

/-- `k` steps from `s` under a schedule. -/
def runUnder (σ : Schedule) : Nat → State → Result
  | 0, s => .next s
  | k + 1, s =>
    match runUnder σ k s with
    | .next t => step { t with agenda := [σ k] }
    | o => o

end Sys2Proof.Machine
end

