-- ==== Sys2Proof/Machine/Assembler.lean ====
section
/-! DEFINITION. The assembler lines of R72 and the pseudo-instructions of R73: the transaction each stands for. Their text
is in AssemblerText.lean. -/

namespace Sys2Proof.Machine

/-- The lines of R72 and R73. -/
inductive AsmLine where
  | create (req : Nat)
  | release
  | capq
  | write (bytes : List Byte)
  | read (len : Nat)
  /-- `<port>: .word 0x<8 hex digits>`: any word, legal or not. -/
  | raw (p : Port) (w : Word)
  | put (b : Byte)
  | wbytes (bytes : List Byte)
  | get
  | drain
  | wprobe
  | rprobe
deriving DecidableEq, Repr

/-- The expansion of a pseudo-instruction (R73); every other line is its own expansion. -/
def AsmLine.expand : AsmLine → AsmLine
  | .put b => .write [b]
  | .wbytes bytes => .write bytes
  | .get => .read 1
  | .drain => .read 0xFFFFFF
  | .wprobe => .write []
  | .rprobe => .read 0
  | line => line

/-- The port and the transaction of a line that is its own expansion (R72). A raw line carries no payload. R72 says only
that it emits any word; for a legal WRITE of `len ≥ 1` on PROD, the one word that takes a payload (R68), this is the
model's choice (DESIGN CHOICE, safe, log entry 22): that transaction is refused PayloadMismatch when it is issued. -/
def AsmLine.plainTransaction : AsmLine → Port × Transaction
  | .create req => (.ctrl, { word := encode (.create req), payload := [] })
  | .release => (.ctrl, { word := encode .release, payload := [] })
  | .capq => (.ctrl, { word := encode .capq, payload := [] })
  | .write bytes => (.prod, { word := encode (.write bytes.length), payload := bytes })
  | .read len => (.cons, { word := encode (.read len), payload := [] })
  | .raw p w => (p, { word := w, payload := [] })
  | .put b => (.prod, { word := encode (.write 1), payload := [b] })
  | .wbytes bytes => (.prod, { word := encode (.write bytes.length), payload := bytes })
  | .get => (.cons, { word := encode (.read 1), payload := [] })
  | .drain => (.cons, { word := encode (.read 0xFFFFFF), payload := [] })
  | .wprobe => (.prod, { word := encode (.write 0), payload := [] })
  | .rprobe => (.cons, { word := encode (.read 0), payload := [] })

/-- The port and the transaction of a line: each is one command word (R73). A number or a count of bytes of `2^24` or
more, which no line that is read has, is cut to 24 bits (the model's choice, log entry 22). -/
def AsmLine.transaction (line : AsmLine) : Port × Transaction := line.expand.plainTransaction

end Sys2Proof.Machine
end

