-- ==== Sys2Proof/Safety.lean ====
section
/-! DEFINITION. What counts as a safe run, in the terms the statements use: the invariants of 10_state.md section 5 and
20_memory.md section 2, the end of a run (R150) and the fairness of the crossing (R52). -/

namespace Sys2Proof.Machine

/-! ## Ghost totals (R29, R30, R49) -/

/-- `W`: the bytes accepted since the last CREATE (R29). -/
def State.totalW (s : State) : Nat := s.accepted.length

/-- `R`: the bytes delivered since the last CREATE (R29). -/
def State.totalR (s : State) : Nat := s.delivered.length

/-- `W_s`: the total at the publication that WR_SEEN holds (R30), computed from the consumer's view. -/
def State.totalWs (s : State) : Nat := s.totalR + s.occConsumer

/-- `R_s`: the total at the publication that RD_SEEN holds (R30), computed from the producer's view. -/
def State.totalRs (s : State) : Nat := s.totalW - s.occProducer

/-- The value of WR_PTR for a total of accepted bytes (R29). -/
def wrOfTotal (c total : Nat) : Nat := 2 * c + total % (2 * c)

/-- The value of RD_PTR for a total of delivered bytes (R29). -/
def rdOfTotal (c total : Nat) : Nat := total % (2 * c)

/-! ## Invariants -/

/-- The totals at the publications still under way: strictly rising from the delivered one (`seen`) and ending at the
latest (R44, R48). -/
def publicationsPending (seen latest : Nat) (totals : List Nat) : Prop :=
  (seen :: totals).Pairwise (· < ·) ∧ (seen :: totals).getLast? = some latest

/-- Counters, snapshots and queues of a live instance (R24 to R30, R44, R48, R49). -/
def State.countersOk (s : State) : Prop :=
  1 ≤ s.capLog2.toNat ∧ s.capLog2.toNat ≤ s.cfg.maxLog2 ∧
  s.wrPtr = wrOfTotal s.cap s.totalW ∧ s.rdPtr = rdOfTotal s.cap s.totalR ∧
  ∃ ws rs : Nat, ∃ tw tr : List Nat,
    s.wrSeen = wrOfTotal s.cap ws ∧ s.rdSeen = rdOfTotal s.cap rs ∧
    s.qW = tw.map (wrOfTotal s.cap) ∧ s.qR = tr.map (rdOfTotal s.cap) ∧
    publicationsPending ws s.totalW tw ∧ publicationsPending rs s.totalR tr ∧
    rs ≤ s.totalR ∧ s.totalR ≤ ws ∧ ws ≤ s.totalW ∧ s.totalW ≤ rs + s.cap

/-- What was delivered since the last CREATE is what was accepted first (R105). -/
def State.streamOk (s : State) : Prop := s.delivered = s.accepted.take s.totalR

/-- The bytes of a live instance: every unread byte stands at its offset, and nothing is listed past the capacity (R32,
R96). -/
def State.bytesOk (s : State) : Prop :=
  (∀ j, s.totalR ≤ j → j < s.totalW → s.storage.read? (j % s.cap) = s.accepted[j]?) ∧
  (∀ cell ∈ s.storage, cell.1 < s.cap)

/-- Every outstanding transaction is well formed (R68). -/
def State.portsOk (s : State) : Prop :=
  ∀ p t, (s.port p).state = .busy t → t.wellFormed p = true

/-- Every register and queue element fits its width (R9, D12). -/
def State.widthsOk (s : State) : Prop :=
  s.wrPtr < 2 ^ (s.cfg.maxLog2 + 2) ∧ s.wrSeen < 2 ^ (s.cfg.maxLog2 + 2) ∧
  s.rdPtr < 2 ^ (s.cfg.maxLog2 + 1) ∧ s.rdSeen < 2 ^ (s.cfg.maxLog2 + 1) ∧
  (∀ v ∈ s.qW, v < 2 ^ (s.cfg.maxLog2 + 2)) ∧ (∀ v ∈ s.qR, v < 2 ^ (s.cfg.maxLog2 + 1))

/-- The invariant of the machine. While there is no instance the queues and the store hold nothing (R38), but the
ghosts keep counting since the last CREATE (R29); under a SYNC crossing the queues are always empty (R28). -/
structure State.Inv (s : State) : Prop where
  cfgOk : s.cfg.wf
  widths : s.widthsOk
  memory : s.storage.wf
  ports : s.portsOk
  syncQueues : s.cfg.crossing = .sync → s.qW = [] ∧ s.qR = []
  notLive : s.live = false → s.qW = [] ∧ s.qR = [] ∧ s.storage = []
  stream : s.streamOk
  counters : s.live = true → s.countersOk
  bytes : s.live = true → s.bytesOk

/-! ## The end of a run (R150) and the conduct of its agents (R143, R144) -/

/-- Every agent's command stream is exhausted (R150): nothing is left in it, and no event to come adds a command to it
(log entry 25). -/
abbrev State.streamsExhausted (s : State) : Prop :=
  (s.ctrl.stream = [] ∧ s.prod.stream = [] ∧ s.cons.stream = []) ∧ ∀ e ∈ s.agenda, e.bringsWork = false

/-- The run has ended well (R150): every stream exhausted, every port IDLE, no value under way, no mark set. -/
abbrev State.final (s : State) : Prop :=
  s.streamsExhausted ∧
  (s.ctrl.state = .idle ∧ s.prod.state = .idle ∧ s.cons.state = .idle) ∧
  ((s.qW = [] ∧ s.qR = []) ∨ s.cfg.crossing = .sync) ∧
  s.faultMark = none ∧ s.refusalMark = none

/-- The run under a schedule of every moment has ended well by step `k`, in the state `s` (R150): nor does the schedule
add a command from then on. -/
def finalUnder (σ : Schedule) (k : Nat) (s : State) : Prop := s.final ∧ ∀ j, k ≤ j → (σ j).bringsWork = false

/-- No mark is set, so the run goes on (R34). -/
abbrev State.unmarked (s : State) : Prop := s.faultMark = none ∧ s.refusalMark = none

/-- The step is safe: it answers a next state, neither a fault nor a refusal. -/
def safeStep (s : State) : Prop := ∃ t, step s = .next t

/-- The counters lie in their legal ranges and no side sees more than the capacity (R24, R25, R26, R30): what the
statements about one command assume of a live state. -/
abbrev State.rangesOk (s : State) : Prop :=
  s.capLog2.toNat ≤ s.cfg.maxLog2 ∧ 2 * s.cap ≤ s.wrPtr ∧ s.wrPtr < 4 * s.cap ∧ s.rdPtr < 2 * s.cap

/-- A port after its command was answered with a response word and data (R33, R66). -/
def PortUnit.answered (u : PortUnit) (w : Word) (data : List Byte) : PortUnit :=
  { u with state := .idle, responses := u.responses ++ [{ word := w, data := data }] }

/-! ## Fairness (R52) -/

/-- Along the run the queue selected by `queue` holds a value at step `k`. -/
def queueHolds (σ : Schedule) (s : State) (queue : State → List Nat) (k : Nat) : Prop :=
  ∃ t, runUnder σ k s = .next t ∧ queue t ≠ []

/-- XW and XR are weakly fair along the run (R52): a crossing step that stays enabled is eventually taken. It is an
assumption about the schedule, not a step of the machine (D11, log entry 19). -/
def crossingFair (σ : Schedule) (s : State) : Prop :=
  ∀ k, ((∀ j, k ≤ j → queueHolds σ s State.qW j) → ∃ j, k ≤ j ∧ σ j = .agent .xw) ∧
    ((∀ j, k ≤ j → queueHolds σ s State.qR j) → ∃ j, k ≤ j ∧ σ j = .agent .xr)

/-! ## The end of a stream (R151) -/

/-- PROD has stopped: it has no command outstanding and none left in its stream (R151). -/
abbrev State.producerStopped (s : State) : Prop := s.prod.state = .idle ∧ s.prod.stream = []

/-- A schedule in which PROD decides on no further command (R151). -/
def producerSilent (σ : Schedule) : Prop := ∀ (k : Nat) (t : Transaction), σ k ≠ .extend .prod t

/-- At step `k` of the run a READ of `len >= 1` is executed (R151). -/
def readExecutesAt (σ : Schedule) (s : State) (k : Nat) : Prop :=
  σ k = .execute .cons ∧ ∃ t tr len, runUnder σ k s = .next t ∧ t.cons.state = .busy tr ∧
    decode .cons tr.word = .ok (.read len) ∧ 1 ≤ len

/-- The bytes CONS received from `s` to `t`: the data of the responses that `t` has and `s` has not. -/
def receivedSince (s t : State) : List Byte :=
  (t.cons.responses.drop s.cons.responses.length).flatMap Response.data

end Sys2Proof.Machine
end

