-- ==== Sys2Proof/Certificates/Slice0/Obligations.lean ====
section
/-! DEFINITION. The statements about the model, one for each rule or group of rules of the spec that says what a command
or the machine does. -/

open Sys2Proof Sys2Proof.Machine

/-! ## Encoding -/

/-- R61, R63, R64, R69: no bit of an encoding is dropped, and a command's word is legal on its own port only. -/
def Obligations.EncodedCommandDecodesOnItsPortOnly : Prop :=
  ∀ i : Instr, i.wellFormed = true →
    decode i.port (encode i) = .ok i ∧ ∀ p, p ≠ i.port → decode p (encode i) = .error .wrongPort

/-- R61, R63, R69: a word that decodes is the encoding of what it decodes to, and that command is well formed. -/
def Obligations.DecodedWordIsTheEncodingOfItsCommand : Prop :=
  ∀ (p : Port) (w : Word) (i : Instr), decode p w = .ok i → encode i = w ∧ i.port = p ∧ i.wellFormed = true

/-- R65: which words are illegal, on every port; and the answer `0x30000000` (ILLEGAL, 0), with nothing else changed,
live or not. -/
def Obligations.IllegalWordIsAnsweredAndChangesNothing : Prop :=
  (∀ w : Word, (∀ p, ∃ e, decode p w = .error e) ↔
    ((opField w = 0x0#4 ∨ 6 ≤ (opField w).toNat) ∨ rsvdField w ≠ 0#4 ∨
      ((opField w = 0x2#4 ∨ opField w = 0x3#4) ∧ argField w ≠ 0#24))) ∧
  ∀ (s : State) (p : Port) (rest : List Event) (tr : Transaction), s.unmarked → s.agenda = .execute p :: rest →
    (s.port p).state = .busy tr →
    ((opField tr.word = 0x0#4 ∨ 6 ≤ (opField tr.word).toNat) ∨ rsvdField tr.word ≠ 0#4 ∨
      ((opField tr.word = 0x2#4 ∨ opField tr.word = 0x3#4) ∧ argField tr.word ≠ 0#24)) →
    step s = .next (State.setPort { s with agenda := rest } p ((s.port p).answered 0x30000000#32 []))

/-- R64: a legal opcode on a port that R63 does not list for it is answered ILLEGAL, with no state change. -/
def Obligations.WrongPortIsAnsweredIllegal : Prop :=
  ∀ (s : State) (p : Port) (rest : List Event) (tr : Transaction) (i : Instr), s.unmarked →
    s.agenda = .execute p :: rest → (s.port p).state = .busy tr → decodeWord tr.word = .ok i → i.port ≠ p →
    step s = .next (State.setPort { s with agenda := rest } p ((s.port p).answered 0x30000000#32 []))

/-- R74: the worked encodings. -/
def Obligations.WorkedEncodingsDecode : Prop :=
  decode .ctrl 0x10000007#32 = .ok (.create 7) ∧ decode .ctrl 0x10000008#32 = .ok (.create 8) ∧
  decode .ctrl 0x20000000#32 = .ok .release ∧ decode .ctrl 0x30000000#32 = .ok .capq ∧
  decode .prod 0x40000004#32 = .ok (.write 4) ∧ decode .cons 0x50000002#32 = .ok (.read 2) ∧
  decode .cons 0x50FFFFFF#32 = .ok (.read 0xFFFFFF) ∧
  (AsmLine.write [0#8, 1#8, 2#8, 3#8]).transaction =
    (.prod, { word := 0x40000004#32, payload := [0x00#8, 0x01#8, 0x02#8, 0x03#8] }) ∧
  AsmLine.drain.transaction = (.cons, { word := 0x50FFFFFF#32, payload := [] }) ∧
  (∀ w ∈ [0x00000000#32, 0x61000000#32, 0x41000004#32, 0x20000001#32], ∀ p, ∃ e, decode p w = .error e) ∧
  responseWord .ok 8 = 0x00000008#32 ∧ responseWord .wouldBlock 0 = 0x10000000#32 ∧
  responseWord .allocFail 0 = 0x20000000#32 ∧ responseWord .illegal 0 = 0x30000000#32

/-- R41 (D15): a serialised word goes least significant byte first, and decoding its bytes is decoding the word. -/
def Obligations.SerialisedWordDecodesAsTheWord : Prop :=
  ∀ (p : Port) (w : Word) (rest : List Byte),
    (∀ k (hk : k < (bytesOfWord w).length), (bytesOfWord w)[k].toNat = w.toNat / 2 ^ (8 * k) % 256) ∧
    decodeBytes p (bytesOfWord w ++ rest) =
      match decode p w with
      | .ok i => .ok (i, rest)
      | .error e => .error e

/-- R73: the expansions; the probes are zero-length commands, and a drain takes everything the snapshot shows. -/
def Obligations.PseudoInstructionsExpand : Prop :=
  (∀ b, (AsmLine.put b).transaction = (.prod, { word := 0x40000001#32, payload := [b] })) ∧
  (∀ bytes, (AsmLine.wbytes bytes).transaction = (AsmLine.write bytes).transaction) ∧
  AsmLine.get.transaction = (.cons, { word := 0x50000001#32, payload := [] }) ∧
  AsmLine.drain.transaction = (.cons, { word := 0x50FFFFFF#32, payload := [] }) ∧
  AsmLine.wprobe.transaction = (.prod, { word := 0x40000000#32, payload := [] }) ∧
  AsmLine.rprobe.transaction = (.cons, { word := 0x50000000#32, payload := [] }) ∧
  ∀ s : State, s.Inv → s.live = true → s.readCount 0xFFFFFF = s.occConsumer

/-! ## Steps, issue and execution -/

/-- R33, R69: executing a port whose word decodes to `i` is `exec i`; the step adds only that the event is spent. -/
def Obligations.StepRunsTheOutstandingCommand : Prop :=
  ∀ (s : State) (p : Port) (rest : List Event) (tr : Transaction) (i : Instr), s.unmarked →
    s.agenda = .execute p :: rest → (s.port p).state = .busy tr → decode p tr.word = .ok i →
    step s = exec i { s with agenda := rest }

/-- The model's choice (log entry 3): a word placed where the next step fetches is the command the next step runs, on
the port that accepts it and with the payload its length asks for. -/
def Obligations.PlacedWordRunsNext : Prop :=
  ∀ (s : State) (w : Nat) (i : Instr), s.unmarked → w < 2 ^ 32 → decodeTableWord 32 w = some i →
    ∃ tr : Transaction, tr.word = encode i ∧ tr.wellFormed i.port = true ∧
      step (s.withFetchWord 32 w) = exec i (s.setPort i.port { (s.port i.port) with state := .busy tr })

/-- R33, R68, R126 (step 1): the issue step moves an IDLE port to BUSY with the next transaction of the stream when the
transaction is well formed, and refuses it otherwise. That the step of an agent that cannot issue, for a BUSY port or an
exhausted stream, only spends the event is the model's choice (log entry 2). -/
def Obligations.IssueMovesPortToBusy : Prop :=
  ∀ (s : State) (a : Agent) (p : Port) (rest : List Event), s.unmarked → s.agenda = .agent a :: rest →
    (a, p) ∈ [(Agent.host, Port.ctrl), (Agent.prod, Port.prod), (Agent.cons, Port.cons)] →
    (∀ tr trs, (s.port p).state = .idle → (s.port p).stream = tr :: trs → tr.wellFormed p = true →
      step s = .next (State.setPort { s with agenda := rest } p { (s.port p) with state := .busy tr, stream := trs })) ∧
    (∀ tr trs, (s.port p).state = .idle → (s.port p).stream = tr :: trs → tr.wellFormed p = false →
      step s = .refused (.payloadMismatch p tr.word)) ∧
    ((s.port p).state ≠ .idle ∨ (s.port p).stream = [] → step s = .next { s with agenda := rest })

/-- R68: the payload rule. A WRITE word on PROD carries exactly `len` bytes; every other transaction carries none. That an
illegal word with opcode 0x4, and a WRITE word on another port, is no WRITE transaction and so carries none is the model's
reading (log entry 12). -/
def Obligations.PayloadRuleSaysWhatIsWellFormed : Prop :=
  ∀ (p : Port) (tr : Transaction), tr.wellFormed p = true ↔
    ((∃ len, p = .prod ∧ len < 2 ^ 24 ∧ tr.word = encode (.write len) ∧ tr.payload.length = len) ∨
     ((∀ len, len < 2 ^ 24 → p = .prod → tr.word ≠ encode (.write len)) ∧ tr.payload = []))

/-- R21, R66, R67: executing a BUSY port, when it answers a next state, produces exactly one response, on that port
alone, and leaves the port IDLE; the reserved bits of the response word are 0 and its status is one of the four. The
other ports stay as they are, but that a CREATE that constructs an instance leaves every port IDLE (R33, R37); that a
command outstanding there then is again the next of its stream is the model's reading (log entry 14). -/
def Obligations.EveryCommandGetsOneResponseOnItsPort : Prop :=
  ∀ (s t : State) (p : Port) (rest : List Event) (tr : Transaction), s.agenda = .execute p :: rest →
    (s.port p).state = .busy tr → step s = .next t →
    ∃ r : Response, t.port p = (s.port p).answered r.word r.data ∧
      r.word.extractLsb' 24 4 = 0#4 ∧ (r.word.extractLsb' 28 4).toNat ≤ 3 ∧
      ∀ q, q ≠ p → t.port q = if s.live = false ∧ t.live = true then (s.port q).withdrawn else s.port q

/-- R68, R71: a response carries exactly `value` data bytes when READ is answered OK, and none otherwise. -/
def Obligations.ResponseDataMatchesItsValue : Prop :=
  ∀ (s t : State) (p : Port) (rest : List Event) (tr : Transaction), s.Inv → s.agenda = .execute p :: rest →
    (s.port p).state = .busy tr → step s = .next t →
    ∃ r : Response, t.port p = (s.port p).answered r.word r.data ∧
      r.data.length = if p = .cons ∧ r.word.extractLsb' 28 4 = 0x0#4 then (r.word.extractLsb' 0 24).toNat else 0

/-! ## CREATE and CAPQ -/

/-- R80: `cap_round(req)` is the smallest power of two that reaches `max(req, 2)`; and the listed values. -/
def Obligations.CapRoundIsTheLeastPowerOfTwo : Prop :=
  (∀ req, (∃ k, capRound req = 2 ^ k) ∧ max req 2 ≤ capRound req ∧ ∀ k, max req 2 ≤ 2 ^ k → capRound req ≤ 2 ^ k) ∧
  capRound 0 = 2 ∧ capRound 1 = 2 ∧ capRound 2 = 2 ∧ capRound 3 = 4 ∧ capRound 7 = 8 ∧ capRound 8 = 8 ∧
  capRound 9 = 16 ∧ capRound (2 ^ 24 - 1) = 2 ^ 24

/-- R81, R141: a CREATE that fits the store answers OK with the rounded capacity and leaves exactly this state: the new
instance, its queues empty and its counters at 0 and `2c`, and every port IDLE (R33, R37). That the listed bytes of STORAGE
go and the stamp moves on is how the model says that its contents are unspecified (log entry 6). That a command
outstanding on PROD or CONS is again the next of its stream is the model's reading (log entry 14); so no command is lost or
overtaken (R21, R127): the agent's next issue step makes it outstanding again. -/
def Obligations.CreateConstructsTheInstance : Prop :=
  ∀ (req : Nat) (s : State), s.cfg.wf → s.live = false → capRound req ≤ 2 ^ s.cfg.maxLog2 →
    let t : State := { s with
      live := true
      capLog2 := BitVec.ofNat 5 (Nat.log2 (capRound req))
      rdPtr := 0
      wrPtr := 2 * capRound req
      rdSeen := 0
      wrSeen := 2 * capRound req
      qW := []
      qR := []
      storage := []
      freeStamp := s.freeStamp + 1
      accepted := []
      delivered := []
      prod := s.prod.withdrawn
      cons := s.cons.withdrawn
      ctrl := s.ctrl.answered (BitVec.ofNat 32 (capRound req)) [] }
    exec (.create req) s = .next t ∧ (∀ p, (t.port p).state = .idle) ∧
      ∀ p tr, p ≠ .ctrl → (s.port p).state = .busy tr → tr.wellFormed p = true →
        t.issue p = .next (t.setPort p (s.port p))

/-- R82: CREATE fails with ALLOC_FAIL exactly when the rounded capacity exceeds the store, and then changes nothing. -/
def Obligations.CreateFailsExactlyWhenTooLarge : Prop :=
  ∀ (req : Nat) (s : State), s.live = false →
    (2 ^ s.cfg.maxLog2 < capRound req →
      exec (.create req) s = .next { s with ctrl := s.ctrl.answered 0x20000000#32 [] }) ∧
    (capRound req ≤ 2 ^ s.cfg.maxLog2 → ∃ t, exec (.create req) s = .next t ∧ t.live = true)

/-- R83: a CREATE executed while an instance is live faults, whatever it requests. -/
def Obligations.CreateWhileLiveFaults : Prop :=
  ∀ (req : Nat) (s : State), s.live = true →
    exec (.create req) s = .fault (.createWhileLive .ctrl (encode (.create req)))

/-- R85: the initial counters encode the empty state in their legal ranges, and in every live state that meets the
invariant WR_PTR exceeds RD_PTR by less than `4c`. -/
def Obligations.NewInstanceIsEmptyAndWritePointerStaysAhead : Prop :=
  (∀ (req : Nat) (s t : State), s.cfg.wf → exec (.create req) s = .next t → t.live = true →
    t.occ = 0 ∧ t.rdPtr = 0 ∧ t.wrPtr = 2 * t.cap ∧ 2 * t.cap ≤ t.wrPtr ∧ t.wrPtr < 4 * t.cap ∧ t.rdPtr < 2 * t.cap) ∧
  (∀ s : State, s.Inv → s.live = true → s.rdPtr < s.wrPtr ∧ s.wrPtr - s.rdPtr < 4 * s.cap)

/-- R84: CAPQ answers `2^CAP_LOG2` and writes no state; it faults while there is no instance. -/
def Obligations.CapqAnswersTheCapacity : Prop :=
  ∀ s : State,
    (s.live = true → s.capLog2.toNat ≤ 23 →
      exec .capq s = .next { s with ctrl := s.ctrl.answered (BitVec.ofNat 32 (2 ^ s.capLog2.toNat)) [] }) ∧
    (s.live = false → exec .capq s = .fault (.notLive .ctrl 0x30000000#32))

/-! ## RELEASE -/

/-- R110, R38, U16: a RELEASE with PROD and CONS IDLE ends the instance, answers `OK 0`, and discards the queues and the
unread bytes, which then are empty lists (the model's choice, log entry 24); nothing is said of the registers, which hold
no value. The ghosts count since the last CREATE and stay (R29). -/
def Obligations.ReleaseEndsTheInstance : Prop :=
  ∀ s : State, s.live = true → s.prod.state = .idle → s.cons.state = .idle →
    ∃ t, exec .release s = .next t ∧ t.live = false ∧ t.qW = [] ∧ t.qR = [] ∧
      (∀ off, t.storage.read? off = none) ∧ t.ctrl = s.ctrl.answered 0x00000000#32 [] ∧ t.prod = s.prod ∧
      t.cons = s.cons ∧ t.cfg = s.cfg ∧ t.faultMark = s.faultMark ∧ t.refusalMark = s.refusalMark ∧ t.agenda = s.agenda ∧
      t.accepted = s.accepted ∧ t.delivered = s.delivered

/-- R111, R112: RELEASE while not live faults NotLive, before any look at the ports; while live with a producer or
consumer command outstanding it faults ReleaseWhileBusy. -/
def Obligations.ReleaseFaultsWhenMisused : Prop :=
  ∀ s : State,
    (s.live = false → exec .release s = .fault (.notLive .ctrl 0x20000000#32)) ∧
    (s.live = true → s.prod.state ≠ .idle ∨ s.cons.state ≠ .idle →
      exec .release s = .fault (.releaseWhileBusy .ctrl 0x20000000#32))

/-! ## WRITE -/

/-- R91, R94, R45, R40: a WRITE of `len >= 1` bytes with free space as the snapshot shows it stores the first
`n = min(free, len)` payload bytes, publishes the folded counter, answers `OK n`, and changes nothing else: every other
byte of STORAGE reads as before. -/
def Obligations.WriteStoresAndPublishes : Prop :=
  ∀ (s : State) (len : Nat) (tr : Transaction), s.cfg.wf → s.live = true → s.rangesOk →
    s.prod.state = .busy tr → tr.payload.length = len → 1 ≤ len →
    modSub s.wrPtr s.rdSeen (2 * s.cap) < s.cap →
    let c := s.cap
    let n := min (c - modSub s.wrPtr s.rdSeen (2 * c)) len
    let v := 2 * c + (s.wrPtr + n) % (2 * c)
    ∃ m : Memory,
      exec (.write len) s = .next { s with
        wrPtr := v
        wrSeen := if s.cfg.crossing = .sync then v else s.wrSeen
        qW := if s.cfg.crossing = .sync then s.qW else s.qW ++ [v]
        storage := m
        accepted := s.accepted ++ tr.payload.take n
        prod := s.prod.answered (BitVec.ofNat 32 n) [] } ∧
      1 ≤ n ∧
      (∀ i, i < n → m.read? ((s.wrPtr % c + i) % c) = tr.payload[i]?) ∧
      (∀ off, (∀ i, i < n → off ≠ (s.wrPtr % c + i) % c) → m.read? off = s.storage.read? off) ∧
      (s.storage.wf → m.wf)

/-- R92: a zero-length WRITE answers `OK 0` in every live state, whatever the occupancy, and changes nothing. -/
def Obligations.ZeroLengthWriteIsANoOp : Prop :=
  ∀ (s : State) (tr : Transaction), s.live = true → s.prod.state = .busy tr → tr.payload = [] →
    exec (.write 0) s = .next { s with prod := s.prod.answered 0x00000000#32 [] }

/-- R93: a WRITE of `len >= 1` bytes with no free space in the snapshot answers WOULD_BLOCK and changes nothing. -/
def Obligations.FullWriteWouldBlock : Prop :=
  ∀ (s : State) (len : Nat) (tr : Transaction), s.live = true → s.prod.state = .busy tr → tr.payload.length = len →
    1 ≤ len → modSub s.wrPtr s.rdSeen (2 * s.cap) = s.cap →
    exec (.write len) s = .next { s with prod := s.prod.answered 0x10000000#32 [] }

/-- R95: the new write counter is `wp + n`, folded at `4c` to `2c + second`; either way it is `2c + ((wp + n) mod 2c)`,
in range and congruent to `wp + n` modulo `2c`; and that is what a WRITE of `n >= 1` bytes leaves in WR_PTR. -/
def Obligations.WriteCounterFolds : Prop :=
  (∀ c wp n : Nat, 2 * c ≤ wp → wp < 4 * c → 1 ≤ n → n ≤ c →
    (wp + n < 4 * c → foldWr c wp n = wp + n) ∧
    (4 * c ≤ wp + n → foldWr c wp n = 2 * c + secondChunk c (wp % c) n) ∧
    foldWr c wp n = 2 * c + (wp + n) % (2 * c) ∧ 2 * c ≤ foldWr c wp n ∧ foldWr c wp n < 4 * c ∧
    foldWr c wp n % (2 * c) = (wp + n) % (2 * c)) ∧
  ∀ (s t : State) (len : Nat), s.Inv → exec (.write len) s = .next t → 1 ≤ s.writeCount len →
    t.wrPtr = foldWr s.cap s.wrPtr (s.writeCount len)

/-- R90, R68: a WRITE whose payload has not exactly `len` bytes is refused. R126 makes this check at issue; that exec makes
it again, in every state and before every other check, is the model's choice (log entry 13). -/
def Obligations.WriteWithWrongPayloadIsRefused : Prop :=
  ∀ (s : State) (len : Nat), s.prod.payload.length ≠ len →
    exec (.write len) s = .refused (.payloadMismatch .prod (encode (.write len)))

/-- R96: a WRITE that answers a next state accepts the first `n` payload bytes, with `n` the count it answers, and they
sit at the offsets of their ghost positions. -/
def Obligations.WriteAppendsToTheAcceptedStream : Prop :=
  ∀ (s t : State) (len : Nat), s.Inv → exec (.write len) s = .next t →
    ∃ (n : Nat) (st : Status), t.prod = s.prod.answered (responseWord st n) [] ∧ (st = .ok ∨ (st = .wouldBlock ∧ n = 0)) ∧
      n ≤ len ∧ t.accepted = s.accepted ++ s.prod.payload.take n ∧ t.totalW = s.totalW + n ∧
      ∀ i, i < n → t.storage.read? ((s.totalW + i) % s.cap) = s.prod.payload[i]?

/-! ## READ -/

/-- R101, R45, R40: a READ of `len >= 1` bytes with data in the snapshot delivers `n = min(occ, len)` bytes in order,
publishes the folded counter, answers `OK n`, and changes nothing else; STORAGE is not written. A byte that no WRITE has
stored is a free value (log entry 6). -/
def Obligations.ReadDeliversAndPublishes : Prop :=
  ∀ (s : State) (len : Nat), s.cfg.wf → s.live = true → s.rangesOk → 1 ≤ len →
    1 ≤ modSub s.wrSeen s.rdPtr (2 * s.cap) → modSub s.wrSeen s.rdPtr (2 * s.cap) ≤ s.cap →
    let c := s.cap
    let n := min (modSub s.wrSeen s.rdPtr (2 * c)) len
    let v := (s.rdPtr + n) % (2 * c)
    ∃ bytes : List Byte,
      exec (.read len) s = .next { s with
        rdPtr := v
        rdSeen := if s.cfg.crossing = .sync then v else s.rdSeen
        qR := if s.cfg.crossing = .sync then s.qR else s.qR ++ [v]
        delivered := s.delivered ++ bytes
        cons := s.cons.answered (BitVec.ofNat 32 n) bytes } ∧
      1 ≤ n ∧ bytes.length = n ∧
      ∀ i, i < n → ∀ b, s.storage.read? ((s.rdPtr % c + i) % c) = some b → bytes[i]? = some b

/-- R102: a zero-length READ answers `OK 0` with no data in every live state and changes nothing. -/
def Obligations.ZeroLengthReadIsANoOp : Prop :=
  ∀ s : State, s.live = true → exec (.read 0) s = .next { s with cons := s.cons.answered 0x00000000#32 [] }

/-- R103: a READ of `len >= 1` bytes with an empty snapshot answers WOULD_BLOCK with no data and changes nothing. -/
def Obligations.EmptyReadWouldBlock : Prop :=
  ∀ (s : State) (len : Nat), s.live = true → 1 ≤ len → modSub s.wrSeen s.rdPtr (2 * s.cap) = 0 →
    exec (.read len) s = .next { s with cons := s.cons.answered 0x10000000#32 [] }

/-- R104: the new read counter is `rp + n`, folded at `2c` to `second`; either way it is `(rp + n) mod 2c`; and that is
what a READ of `n >= 1` bytes leaves in RD_PTR. -/
def Obligations.ReadCounterFolds : Prop :=
  (∀ c rp n : Nat, rp < 2 * c → 1 ≤ n → n ≤ c →
    (rp + n < 2 * c → foldRd c rp n = rp + n) ∧
    (2 * c ≤ rp + n → foldRd c rp n = secondChunk c (rp % c) n) ∧
    foldRd c rp n = (rp + n) % (2 * c) ∧ foldRd c rp n < 2 * c) ∧
  ∀ (s t : State) (len : Nat), s.Inv → exec (.read len) s = .next t → 1 ≤ s.readCount len →
    t.rdPtr = foldRd s.cap s.rdPtr (s.readCount len)

/-- R105: a READ delivers, in order, the accepted bytes at the next ghost positions, and answers them. -/
def Obligations.ReadDeliversTheNextAcceptedBytes : Prop :=
  ∀ (s t : State) (len : Nat), s.Inv → exec (.read len) s = .next t →
    ∃ (n : Nat) (st : Status), (st = .ok ∨ (st = .wouldBlock ∧ n = 0)) ∧ n ≤ len ∧
      t.cons = s.cons.answered (responseWord st n) ((s.accepted.drop s.totalR).take n) ∧
      t.delivered = s.delivered ++ (s.accepted.drop s.totalR).take n ∧ t.totalR = s.totalR + n ∧
      t.totalR ≤ s.totalWs ∧ s.totalWs ≤ s.totalW

/-! ## Faults and refusals -/

/-- R124, R143: WRITE, READ and CAPQ fault while there is no instance, before the zero-length check (R126). -/
def Obligations.CommandsFaultWithoutAnInstance : Prop :=
  ∀ s : State, s.live = false →
    (∀ len, s.prod.payload.length = len → exec (.write len) s = .fault (.notLive .prod (encode (.write len)))) ∧
    (∀ len, exec (.read len) s = .fault (.notLive .cons (encode (.read len)))) ∧
    exec .capq s = .fault (.notLive .ctrl (encode .capq))

/-- R30, R91, R101: a computed occupancy above the capacity raises InvariantBroken. -/
def Obligations.BrokenOccupancyFaults : Prop :=
  ∀ (s : State) (len : Nat), s.live = true → 1 ≤ len →
    (s.prod.payload.length = len → s.cap < modSub s.wrPtr s.rdSeen (2 * s.cap) →
      exec (.write len) s = .fault (.invariantBroken .prod (encode (.write len)))) ∧
    (s.cap < modSub s.wrSeen s.rdPtr (2 * s.cap) →
      exec (.read len) s = .fault (.invariantBroken .cons (encode (.read len))))

/-- R34, R124, R131: a fault or a refusal sets its mark; a marked state keeps its marks through any number of steps and is
never final; both marks are clear at launch, from reset and from a fresh instance (R142). That recording a mark changes
nothing else, and that a marked state does not change at all, is the model's choice (log entry 10). -/
def Obligations.MarksAreStickyAndNeverFinal : Prop :=
  (∀ (s : State) (f : Fault), step s = .fault f → s.advance = { s with faultMark := some f }) ∧
  (∀ (s : State) (r : Refusal), step s = .refused r → s.advance = { s with refusalMark := some r }) ∧
  (∀ (s : State) (k : Nat), ¬ s.unmarked → State.advance^[k] s = s ∧ ¬ (State.advance^[k] s).final) ∧
  (∀ (cfg : Config) (host prod cons : List Transaction) (agenda : List Event),
    ((State.resetWith cfg).load host prod cons agenda).unmarked ∧
    ∀ (req : Nat) (s : State), State.fresh cfg req = some s → (s.load host prod cons agenda).unmarked)

/-- R131: attaching a second producer or consumer is refused. -/
def Obligations.SecondAgentIsRefused : Prop :=
  ∀ (s : State) (rest : List Event), s.unmarked →
    (s.agenda = .attachSecond .producer :: rest → step s = .refused (.extraAgent .prod)) ∧
    (s.agenda = .attachSecond .consumer :: rest → step s = .refused (.extraAgent .cons))

/-! ## The crossing -/

/-- R47: XW delivers the head of Q_W to WR_SEEN and removes it, XR the same with Q_R and RD_SEEN; that a step
with an empty queue or under a SYNC crossing, where it is not enabled, only spends the event is the model's choice (log
entry 2). -/
def Obligations.CrossingDeliversTheHead : Prop :=
  ∀ (s : State) (rest : List Event), s.unmarked →
    (s.agenda = .agent .xw :: rest →
      (∀ v q, s.cfg.crossing = .async → s.qW = v :: q → step s = .next { s with agenda := rest, wrSeen := v, qW := q }) ∧
      (s.cfg.crossing = .sync ∨ s.qW = [] → step s = .next { s with agenda := rest })) ∧
    (s.agenda = .agent .xr :: rest →
      (∀ v q, s.cfg.crossing = .async → s.qR = v :: q → step s = .next { s with agenda := rest, rdSeen := v, qR := q }) ∧
      (s.cfg.crossing = .sync ∨ s.qR = [] → step s = .next { s with agenda := rest }))

/-- R28: under a SYNC crossing a published counter is seen at once and nothing is under way. -/
def Obligations.SyncSnapshotsAreExact : Prop :=
  ∀ s : State, s.Inv → s.live = true → s.cfg.crossing = .sync →
    s.wrSeen = s.wrPtr ∧ s.rdSeen = s.rdPtr ∧ s.qW = [] ∧ s.qR = []

/-- R48: while an instance lives, no step takes a snapshot back. -/
def Obligations.SnapshotsAreMonotone : Prop :=
  ∀ s t : State, s.Inv → s.live = true → step s = .next t → t.live = true →
    s.totalWs ≤ t.totalWs ∧ s.totalRs ≤ t.totalRs ∧ s.totalW ≤ t.totalW ∧ s.totalR ≤ t.totalR

/-- R49: the snapshot bounds; the snapshots hold the values of the totals they stand for. -/
def Obligations.SnapshotBoundsHold : Prop :=
  ∀ s : State, s.Inv → s.live = true →
    s.totalRs ≤ s.totalR ∧ s.totalR ≤ s.totalWs ∧ s.totalWs ≤ s.totalW ∧ s.totalW ≤ s.totalRs + s.cap ∧
    s.wrSeen = wrOfTotal s.cap s.totalWs ∧ s.rdSeen = rdOfTotal s.cap s.totalRs ∧
    s.freeProducer ≤ s.cap - s.occ ∧ s.occConsumer ≤ s.occ

/-- R52: along a run under a weakly fair schedule in which the instance lives on, every value published by then is
eventually delivered. -/
def Obligations.EveryPublicationIsEventuallyDelivered : Prop :=
  ∀ (σ : Schedule) (s : State), s.Inv → s.cfg.crossing = .async → crossingFair σ s →
    (∀ k, ∃ t, runUnder σ k s = .next t ∧ t.live = true) →
    ∀ (k : Nat) (t : State), runUnder σ k s = .next t →
      (∃ j u, k ≤ j ∧ runUnder σ j s = .next u ∧ t.totalW ≤ u.totalWs) ∧
      (∃ j u, k ≤ j ∧ runUnder σ j s = .next u ∧ t.totalR ≤ u.totalRs)

/-- R151, under both crossings. Once PROD has stopped, a consumer that goes on executing READs of any `len >= 1` until it
has received every accepted byte does receive exactly the accepted bytes, in order, under every weakly fair schedule along
which the instance lives on, and no more after that. The consumer is unbounded: it may decide on one more READ at any
moment (log entry 25), so that without the fairness of the crossing it could be answered WOULD_BLOCK for ever. And in one bounded run: once the values under way have been delivered,
a single READ that asks for enough delivers every byte that was not delivered before. -/
def Obligations.ReadAfterDeliveryDrainsTheStream : Prop :=
  (∀ (σ : Schedule) (s : State), s.Inv → s.producerStopped → producerSilent σ → crossingFair σ s →
    (∀ k, ∃ t, runUnder σ k s = .next t ∧ t.live = true) →
    (∀ k t, runUnder σ k s = .next t → t.totalR < s.totalW → ∃ j, k ≤ j ∧ readExecutesAt σ s j) →
    ∃ k, ∀ j t, k ≤ j → runUnder σ j s = .next t →
      t.accepted = s.accepted ∧ t.delivered = s.accepted ∧ receivedSince s t = s.accepted.drop s.totalR) ∧
  ∀ (s : State) (rest : List Event) (tr : Transaction) (len : Nat), s.Inv → s.live = true → s.unmarked →
    s.cons.state = .busy tr → decode .cons tr.word = .ok (.read len) →
    s.totalR < s.totalW → s.totalW - s.totalR ≤ len →
    s.agenda = List.replicate s.qW.length (.agent .xw) ++ .execute .cons :: rest →
    ∃ t, core.run (s.qW.length + 1) s = .next t ∧ t.delivered = s.accepted ∧ t.accepted = s.accepted ∧
      t.cons = s.cons.answered (BitVec.ofNat 32 (s.totalW - s.totalR)) (s.accepted.drop s.totalR) ∧ t.occ = 0

/-! ## Storage -/

/-- R40: the per-byte offsets are the two contiguous chunks, in order. -/
def Obligations.TransferIsTwoContiguousChunks : Prop :=
  ∀ c start n : Nat, start < c → n ≤ c →
    transferOffsets c start n =
      List.range' start (firstChunk c start n) ++ List.range' 0 (secondChunk c start n) ∧
    firstChunk c start n + secondChunk c start n = n ∧
    (start + n ≤ c → secondChunk c start n = 0 ∧ firstChunk c start n = n) ∧
    (c < start + n → firstChunk c start n = c - start)

/-- R51: a WRITE stores only to offsets the producer owns, and a READ reads only offsets the consumer owns, each holding
a byte that a WRITE stored since the last CREATE. -/
def Obligations.WritesAndReadsAreDisjoint : Prop :=
  ∀ s : State, s.Inv → s.live = true → ∀ len : Nat,
    (∀ off ∈ s.writeOffsets len, ¬ s.consumerOwns off ∧
      ∃ i, i < s.totalRs + s.cap - s.totalW ∧ off = (s.totalW + i) % s.cap) ∧
    (∀ off ∈ s.readOffsets len, s.consumerOwns off ∧ (s.storage.read? off).isSome ∧
      ∃ i, i < s.totalWs - s.totalR ∧ off = (s.totalR + i) % s.cap)

/-- Every step keeps the canonical form of STORAGE, in every state (log entry 6). -/
def Obligations.StepKeepsStorageCanonical : Prop :=
  ∀ s t : State, s.storage.wf → step s = .next t → t.storage.wf

/-! ## The whole machine -/

/-- R23, R110, R140: LIVE is set by a successful CREATE alone, and cleared by RELEASE, with PROD and CONS IDLE, and by
hardware reset alone. -/
def Obligations.OnlyLifecycleCommandsChangeLive : Prop :=
  ∀ s t : State, step s = .next t → s.live ≠ t.live →
    ∃ e rest, s.agenda = e :: rest ∧
      ((s.live = false ∧ e = .execute .ctrl ∧
        ∃ tr req, s.ctrl.state = .busy tr ∧ decode .ctrl tr.word = .ok (.create req) ∧ capRound req ≤ 2 ^ s.cfg.maxLog2) ∨
       (s.live = true ∧ e = .hardwareReset) ∨
       (s.live = true ∧ e = .execute .ctrl ∧ s.prod.state = .idle ∧ s.cons.state = .idle ∧
        ∃ tr, s.ctrl.state = .busy tr ∧ decode .ctrl tr.word = .ok .release))

/-- R36: while live, a step leaves the parameters, CAP_LOG2 and the marks as they are. -/
def Obligations.CapacityIsImmutableWhileLive : Prop :=
  ∀ s t : State, s.live = true → step s = .next t → t.live = true →
    t.capLog2 = s.capLog2 ∧ t.cfg = s.cfg ∧ t.faultMark = s.faultMark ∧ t.refusalMark = s.refusalMark ∧
    t.freeStamp = s.freeStamp

/-- R44, R25, R26, R27: while live, only a WRITE on PROD writes WR_PTR and STORAGE, only a READ on CONS writes RD_PTR,
and each side's snapshot is written by the other side's publication or by its crossing agent alone. -/
def Obligations.EachCounterHasOneWriter : Prop :=
  ∀ (s t : State) (e : Event) (rest : List Event), s.agenda = e :: rest → s.live = true → step s = .next t →
    t.live = true →
    (t.wrPtr ≠ s.wrPtr ∨ t.storage ≠ s.storage ∨ t.accepted ≠ s.accepted → e = .execute .prod) ∧
    (t.rdPtr ≠ s.rdPtr ∨ t.delivered ≠ s.delivered → e = .execute .cons) ∧
    (t.wrSeen ≠ s.wrSeen → (e = .agent .xw ∧ s.cfg.crossing = .async) ∨ (e = .execute .prod ∧ s.cfg.crossing = .sync)) ∧
    (t.rdSeen ≠ s.rdSeen → (e = .agent .xr ∧ s.cfg.crossing = .async) ∨ (e = .execute .cons ∧ s.cfg.crossing = .sync)) ∧
    (t.qW ≠ s.qW → e = .agent .xw ∨ e = .execute .prod) ∧ (t.qR ≠ s.qR → e = .agent .xr ∨ e = .execute .cons)

/-- R56, R126, R137: in a live state that meets the invariant, an outstanding command on PROD or CONS completes in one
step of the controller, whatever the other ports hold. -/
def Obligations.WriteAndReadAlwaysComplete : Prop :=
  ∀ (s : State) (p : Port) (rest : List Event), s.Inv → s.live = true → s.unmarked → p ≠ .ctrl →
    s.agenda = .execute p :: rest → ∃ t, step s = .next t ∧ (t.port p).state = .idle

/-- R30, R124: InvariantBroken, and the model's own outsideStore (log entry 7), are not reached from a state that meets
the invariant without an earlier fault. -/
def Obligations.InternalFaultsAreUnreachable : Prop :=
  ∀ s : State, s.Inv → s.unmarked →
    ∀ (p : Port) (w : Word), step s ≠ .fault (.invariantBroken p w) ∧ step s ≠ .fault (.outsideStore p w)

/-- R31: the occupancy states, by the totals: empty when nothing is unread, full when `c` bytes are. -/
def Obligations.OccupancyTellsFullFromEmpty : Prop :=
  ∀ s : State, s.Inv → s.live = true →
    s.occ = s.totalW - s.totalR ∧ s.occ ≤ s.cap ∧
    (s.fill = .empty ↔ s.totalW = s.totalR) ∧ (s.fill = .full ↔ s.totalW = s.totalR + s.cap) ∧
    (s.fill = .partly ↔ s.totalR < s.totalW ∧ s.totalW < s.totalR + s.cap)

/-- R10: the responses, the bytes stored and the bytes delivered depend on the counters modulo `2c` only. -/
def Obligations.ResponsesDependOnCountersModuloTwoC : Prop :=
  ∀ (s t : State) (wp rp ws rs len : Nat),
    wp % (2 * s.cap) = s.wrPtr % (2 * s.cap) → rp % (2 * s.cap) = s.rdPtr % (2 * s.cap) →
    ws % (2 * s.cap) = s.wrSeen % (2 * s.cap) → rs % (2 * s.cap) = s.rdSeen % (2 * s.cap) →
    (exec (.write len) s = .next t → ∃ t', exec (.write len) { s with wrPtr := wp, rdPtr := rp, wrSeen := ws, rdSeen := rs } = .next t' ∧
      t'.prod = t.prod ∧ t'.storage = t.storage ∧ t'.accepted = t.accepted) ∧
    (exec (.read len) s = .next t → ∃ t', exec (.read len) { s with wrPtr := wp, rdPtr := rp, wrSeen := ws, rdSeen := rs } = .next t' ∧
      t'.cons = t.cons ∧ t'.storage = t.storage ∧ t'.delivered = t.delivered)

/-- R38: what holds no value is not observed. Without an instance, two states that differ only in those items run every
command alike; after a CREATE that constructs an instance they are equal. -/
def Obligations.ItemsWithoutValueAreNotObserved : Prop :=
  ∀ (s : State) (k : BitVec 5) (a b c d : Nat) (m : Memory) (qw qr : List Nat) (acc del : List Byte) (i : Instr),
    s.live = false →
    let s' := { s with capLog2 := k, wrPtr := a, rdPtr := b, wrSeen := c, rdSeen := d, storage := m, qW := qw, qR := qr,
                       accepted := acc, delivered := del }
    (∀ f, exec i s = .fault f → exec i s' = .fault f) ∧ (∀ r, exec i s = .refused r → exec i s' = .refused r) ∧
    (∀ t, exec i s = .next t → ∃ t', exec i s' = .next t' ∧ t'.live = t.live ∧ t'.ctrl = t.ctrl ∧ t'.prod = t.prod ∧
      t'.cons = t.cons ∧ (t.live = true → t' = t))

/-! ## Reset and launch -/

/-- R140, R34: hardware reset ends the instance, discards every outstanding command without a response, empties the
queues and leaves the marks; of the items that then hold no value nothing is said. A port changes in its state alone, so
a BUSY command is not issued again: that the commands not issued yet and the responses delivered before stay is the
model's reading (log entry 17). The ghosts count since the last CREATE and stay (R29, the model's choice in log entry
15). -/
def Obligations.HardwareResetEndsTheInstance : Prop :=
  (∀ (s : State) (rest : List Event), s.unmarked → s.agenda = .hardwareReset :: rest →
    ∃ t, step s = .next t ∧ t.live = false ∧ (∀ p, t.port p = { s.port p with state := .idle }) ∧
      t.qW = [] ∧ t.qR = [] ∧ t.cfg = s.cfg ∧ t.accepted = s.accepted ∧ t.delivered = s.delivered) ∧
  (∀ s : State, s.hardwareReset.faultMark = s.faultMark ∧ s.hardwareReset.refusalMark = s.refusalMark)

/-- R37, R140, R142: the reset state of every build has no instance, IDLE ports, empty queues and clear marks. The other
registers are at the model's choice (log entry 4), of which nothing is said. -/
def Obligations.ResetStateIsAsTheTableSays : Prop :=
  ∀ cfg : Config,
    (State.resetWith cfg).live = false ∧ (∀ p, ((State.resetWith cfg).port p).state = .idle) ∧
    (State.resetWith cfg).qW = [] ∧ (State.resetWith cfg).qR = [] ∧ (State.resetWith cfg).unmarked ∧
    (State.resetWith cfg).cfg = cfg ∧ ∃ cfg₀ : Config, cfg₀.wf ∧ State.reset = State.resetWith cfg₀

/-- R142: the fresh instance exists exactly when the request fits the store, and has its capacity, IDLE ports,
`W = R = 0` and no mark. -/
def Obligations.FreshInstanceIsAsTheRuleSays : Prop :=
  ∀ (cfg : Config) (req : Nat), cfg.wf →
    (capRound req ≤ 2 ^ cfg.maxLog2 ↔ ∃ s, State.fresh cfg req = some s) ∧
    ∀ s, State.fresh cfg req = some s →
      s.live = true ∧ s.cap = capRound req ∧ (∀ p, (s.port p).state = .idle) ∧ s.totalW = 0 ∧ s.totalR = 0 ∧ s.unmarked ∧
      s.Inv

/-! ## Invariants -/

/-- The invariant holds after hardware reset, for every legal build and in the state `reset`, and once any streams and
any schedule are loaded. -/
def Obligations.InvariantHoldsAtReset : Prop :=
  State.reset.Inv ∧ ∀ (cfg : Config) (host prod cons : List Transaction) (agenda : List Event), cfg.wf →
    ((State.resetWith cfg).load host prod cons agenda).Inv

/-- R29, R30, R32, R44, R49: every step keeps the invariant, from every state that meets it. -/
def Obligations.EveryStepKeepsTheInvariant : Prop :=
  ∀ s t : State, s.Inv → step s = .next t → t.Inv

/-- R29: the ghost totals are 0 after CREATE, and on every run of every legal build, from reset, with any streams and any
schedule, the counters of a live instance are the ghost totals folded. -/
def Obligations.CountersAreTheFoldedTotalsOnEveryRun : Prop :=
  (∀ (req : Nat) (s t : State), exec (.create req) s = .next t → t.live = true → t.totalW = 0 ∧ t.totalR = 0) ∧
  ∀ (cfg : Config) (host prod cons : List Transaction) (agenda : List Event) (k : Nat) (s : State), cfg.wf →
    core.run k ((State.resetWith cfg).load host prod cons agenda) = .next s → s.live = true →
    s.wrPtr = 2 * s.cap + s.totalW % (2 * s.cap) ∧ s.rdPtr = s.totalR % (2 * s.cap)

/-- R105, R30: on every run no byte is duplicated, dropped or reordered: what was delivered since the last CREATE is what
was accepted first, after a RELEASE or a hardware reset too, and while live at most `c` accepted bytes are unread. -/
def Obligations.NoByteIsLostOrReorderedOnAnyRun : Prop :=
  ∀ (cfg : Config) (host prod cons : List Transaction) (agenda : List Event) (k : Nat) (s : State), cfg.wf →
    core.run k ((State.resetWith cfg).load host prod cons agenda) = .next s →
    s.delivered <+: s.accepted ∧ s.totalR ≤ s.totalW ∧ (s.live = true → s.totalW ≤ s.totalR + s.cap)
end

