-- ==== Sys2Proof/Laws/Arithmetic.lean ====
section
/-! SUPPORT. The arithmetic of the counters: the integer difference of R12 in natural numbers, and the offsets and
chunks of a transfer (R40). -/

namespace Sys2Proof.Machine

theorem two_pow_pos (k : Nat) : 0 < 2 ^ k := Nat.pow_pos (by decide)

@[simp] theorem cap_pos (s : State) : 0 < s.cap := two_pow_pos _

theorem cap_ne_zero (s : State) : s.cap ≠ 0 := Nat.ne_of_gt (cap_pos s)

/-! ## The difference modulo `m` -/

theorem modSub_lt (a b : Nat) {m : Nat} (hm : 0 < m) : modSub a b m < m := by
  have h1 := Int.emod_nonneg ((a : Int) - b) (Int.ofNat_ne_zero.mpr (Nat.ne_of_gt hm))
  have h2 := Int.emod_lt_of_pos ((a : Int) - b) (Int.ofNat_lt.mpr hm)
  unfold modSub
  omega

/-- A difference of totals is recovered from their residues: how every occupancy is computed (R29, R30). -/
theorem modSub_of_totals {a b x y m : Nat} (ha : a % m = x % m) (hb : b % m = y % m) (hxy : y ≤ x) (hlt : x - y < m) :
    modSub a b m = x - y := by
  have hm : 0 < m := by omega
  have h : ((a : Int) - b) % m = ((x : Int) - y) % m := by
    rw [Int.sub_emod, Int.sub_emod (x : Int)]
    congr 2
    · exact_mod_cast ha
    · exact_mod_cast hb
  have hx : ((x : Int) - y) % m = (x - y : Nat) := by
    rw [← Int.ofNat_sub hxy]
    exact Int.emod_eq_of_lt (Int.natCast_nonneg _) (Int.ofNat_lt.mpr hlt)
  unfold modSub
  rw [h, hx, Int.toNat_natCast]

/-! ## Offsets of a transfer -/

@[simp] theorem transferOffsets_length (c start n : Nat) : (transferOffsets c start n).length = n := by
  simp [transferOffsets]

theorem mem_transferOffsets {c start n off : Nat} :
    off ∈ transferOffsets c start n ↔ ∃ i, i < n ∧ off = (start + i) % c := by
  simp [transferOffsets, eq_comm]

theorem transferOffsets_lt {c start n off : Nat} (hc : 0 < c) (h : off ∈ transferOffsets c start n) : off < c := by
  obtain ⟨i, -, rfl⟩ := mem_transferOffsets.mp h
  exact Nat.mod_lt _ hc

/-- Two positions less than `c` apart have different offsets. -/
theorem offset_ne {c x y : Nat} (hlt : x < y) (hy : y < x + c) : x % c ≠ y % c := by
  intro h
  have hd : c ∣ y - x := (Nat.modEq_iff_dvd' (Nat.le_of_lt hlt)).mp h
  exact absurd (Nat.le_of_dvd (by omega) hd) (by omega)

theorem transferOffsets_nodup {c start n : Nat} (hn : n ≤ c) : (transferOffsets c start n).Nodup := by
  unfold transferOffsets
  refine (List.nodup_map_iff_inj_on (List.nodup_range (n := n))).mpr ?_
  intro i hi j hj h
  have hi := List.mem_range.mp hi
  have hj := List.mem_range.mp hj
  rcases Nat.lt_trichotomy i j with hij | hij | hij
  · exact absurd h (offset_ne (by omega) (by omega))
  · exact hij
  · exact absurd h.symm (offset_ne (by omega) (by omega))

end Sys2Proof.Machine
end

