-- ==== Sys2Proof/Laws/Encoding.lean ====
section
/-! SUPPORT. The fields of a word the encoder assembles (R61), bit by bit. -/

namespace Sys2Proof

theorem getLsbD_commandWord (op : BitVec 4) (arg k : Nat) :
    (commandWord op arg).getLsbD k =
      if k < 24 then (BitVec.ofNat 24 arg).getLsbD k else if k < 28 then false else op.getLsbD (k - 28) := by
  have h1 : (commandWord op arg).getLsbD k = _ :=
    BitVec.getLsbD_append (x := op ++ 0#4) (y := BitVec.ofNat 24 arg) (i := k)
  have h2 := BitVec.getLsbD_append (x := op) (y := 0#4) (i := k - 24)
  rw [h1, h2]
  split
  · simp
  · split
    · have : k < 28 := by omega
      simp [this]
    · have : ¬ k < 28 := by omega
      simp [this, Nat.sub_sub]

@[simp] theorem opField_commandWord (op : BitVec 4) (arg : Nat) : opField (commandWord op arg) = op := by
  apply BitVec.eq_of_getLsbD_eq
  intro k hk
  simp only [opField, BitVec.getLsbD_extractLsb', getLsbD_commandWord]
  interval_cases k <;> simp

@[simp] theorem rsvdField_commandWord (op : BitVec 4) (arg : Nat) : rsvdField (commandWord op arg) = 0#4 := by
  apply BitVec.eq_of_getLsbD_eq
  intro k hk
  simp only [rsvdField, BitVec.getLsbD_extractLsb', getLsbD_commandWord]
  interval_cases k <;> simp

@[simp] theorem argField_commandWord (op : BitVec 4) (arg : Nat) :
    argField (commandWord op arg) = BitVec.ofNat 24 arg := by
  apply BitVec.eq_of_getLsbD_eq
  intro k hk
  simp [argField, getLsbD_commandWord, hk]

/-- The mask of a command with an argument keeps `op` and `rsvd` and clears the argument (R63). -/
theorem commandWord_masked (op : BitVec 4) (arg : Nat) : commandWord op arg &&& 0xFF000000#32 = op ++ 0#28 := by
  apply BitVec.eq_of_getLsbD_eq
  intro k hk
  have h : (op ++ 0#28 : BitVec 32).getLsbD k = _ := BitVec.getLsbD_append (x := op) (y := 0#28) (i := k)
  rw [h, BitVec.getLsbD_and, getLsbD_commandWord]
  interval_cases k <;> simp

end Sys2Proof
end

