-- ==== Sys2Proof/Laws/Memory.lean ====
section
/-! SUPPORT. The laws of STORAGE: a byte written reads back, every other offset reads as before, and every operation
keeps the canonical form. -/

namespace Sys2Proof.Machine.Memory

/-! ## One byte -/

@[simp] theorem read?_nil (off : Nat) : Memory.read? [] off = none := rfl

theorem read?_write_same (m : Memory) (off : Nat) (b : Byte) : (write m off b).read? off = some b := by
  induction m with
  | nil => simp [write, read?]
  | cons cell m ih =>
    obtain ⟨a, x⟩ := cell
    unfold write
    split
    · simp [read?]
    · split
      · simp [read?]
      · simp [read?, *]

theorem read?_write_other (m : Memory) (off other : Nat) (b : Byte) (h : other ≠ off) :
    (write m off b).read? other = m.read? other := by
  induction m with
  | nil => simp [write, read?, h, unlisted]
  | cons cell m ih =>
    obtain ⟨a, x⟩ := cell
    unfold write
    split
    · simp [read?, h]
    · split
      · rename_i hoff
        subst hoff
        simp [read?, h]
      · simp [read?, ih]

theorem mem_write {m : Memory} {off : Nat} {b : Byte} {cell : Host.Cell} (h : cell ∈ write m off b) :
    cell = (off, b) ∨ cell ∈ m := by
  induction m with
  | nil => simpa [write] using h
  | cons head m ih =>
    obtain ⟨a, x⟩ := head
    unfold write at h
    split at h
    · simpa using h
    · split at h
      · rcases List.mem_cons.mp h with h | h
        · exact .inl h
        · exact .inr (List.mem_cons_of_mem _ h)
      · rcases List.mem_cons.mp h with h | h
        · exact .inr (h ▸ List.mem_cons_self)
        · exact (ih h).imp id (List.mem_cons_of_mem _)

theorem write_wf {m : Memory} (h : m.wf) (off : Nat) (b : Byte) : (write m off b).wf := by
  induction m with
  | nil => simp [write, wf]
  | cons head m ih =>
    obtain ⟨a, x⟩ := head
    obtain ⟨hhead, htail⟩ := List.pairwise_cons.mp h
    unfold write
    split
    · rename_i hlt
      refine List.pairwise_cons.mpr ⟨fun cell hc => ?_, h⟩
      rcases List.mem_cons.mp hc with rfl | hc
      · exact hlt
      · exact Nat.lt_trans hlt (hhead cell hc)
    · split
      · rename_i heq
        subst heq
        exact List.pairwise_cons.mpr ⟨hhead, htail⟩
      · refine List.pairwise_cons.mpr ⟨fun cell hc => ?_, ih htail⟩
        rcases mem_write hc with rfl | hc
        · show a < off
          omega
        · exact hhead cell hc

/-! ## Several bytes -/

@[simp] theorem writeAll_nil (m : Memory) : m.writeAll [] = m := rfl

@[simp] theorem writeAll_cons (m : Memory) (off : Nat) (b : Byte) (rest : List (Nat × Byte)) :
    m.writeAll ((off, b) :: rest) = (m.write off b).writeAll rest := rfl

theorem writeAll_wf {m : Memory} (h : m.wf) (cells : List (Nat × Byte)) : (m.writeAll cells).wf := by
  induction cells generalizing m with
  | nil => exact h
  | cons cell rest ih => exact ih (write_wf h cell.1 cell.2)

theorem mem_writeAll {m : Memory} {cells : List (Nat × Byte)} {cell : Host.Cell} (h : cell ∈ m.writeAll cells) :
    cell ∈ cells ∨ cell ∈ m := by
  induction cells generalizing m with
  | nil => exact .inr h
  | cons head rest ih =>
    rcases ih (m := m.write head.1 head.2) h with h | h
    · exact .inl (List.mem_cons_of_mem _ h)
    · rcases mem_write h with h | h
      · exact .inl (h ▸ List.mem_cons_self)
      · exact .inr h

theorem read?_writeAll_other (m : Memory) (cells : List (Nat × Byte)) (other : Nat)
    (h : ∀ cell ∈ cells, cell.1 ≠ other) : (m.writeAll cells).read? other = m.read? other := by
  induction cells generalizing m with
  | nil => rfl
  | cons head rest ih =>
    rw [show m.writeAll (head :: rest) = (m.write head.1 head.2).writeAll rest from rfl,
      ih _ fun c hc => h c (List.mem_cons_of_mem _ hc)]
    exact read?_write_other _ _ _ _ (Ne.symm (h head List.mem_cons_self))

theorem read?_writeAll_listed (m : Memory) (cells : List (Nat × Byte)) (hnodup : (cells.map Prod.fst).Nodup)
    {off : Nat} {b : Byte} (h : (off, b) ∈ cells) : (m.writeAll cells).read? off = some b := by
  induction cells generalizing m with
  | nil => cases h
  | cons head rest ih =>
    rw [show m.writeAll (head :: rest) = (m.write head.1 head.2).writeAll rest from rfl]
    obtain ⟨hnot, hrest⟩ := List.nodup_cons.mp hnodup
    rcases List.mem_cons.mp h with rfl | h
    · rw [read?_writeAll_other]
      · exact read?_write_same _ _ _
      · intro cell hc heq
        exact hnot (List.mem_map.mpr ⟨cell, hc, heq⟩)
    · exact ih _ hrest h

/-! ## Storing and loading a transfer -/

/-- All that storing a transfer can do. -/
theorem storeAt_eq_some {m m' : Memory} {size : Nat} {offs : List Nat} {bytes : List Byte} :
    m.storeAt size offs bytes = some m' ↔ (∀ off ∈ offs, off < size) ∧ m' = m.writeAll (offs.zip bytes) := by
  unfold storeAt
  split
  · rename_i h
    simp only [List.all_eq_true, decide_eq_true_eq] at h
    exact ⟨fun e => ⟨h, (Option.some.inj e).symm⟩, fun ⟨_, e⟩ => e ▸ rfl⟩
  · rename_i h
    simp only [List.all_eq_true, decide_eq_true_eq] at h
    exact ⟨fun e => by simp at e, fun ⟨h', _⟩ => absurd h' h⟩

/-- All that loading a transfer can do. -/
theorem loadAt_eq_some {m : Memory} {size stamp : Nat} {offs : List Nat} {bytes : List Byte} :
    m.loadAt size stamp offs = some bytes ↔ (∀ off ∈ offs, off < size) ∧ bytes = offs.map (m.byteAt stamp) := by
  unfold loadAt
  split
  · rename_i h
    simp only [List.all_eq_true, decide_eq_true_eq] at h
    exact ⟨fun e => ⟨h, (Option.some.inj e).symm⟩, fun ⟨_, e⟩ => e ▸ rfl⟩
  · rename_i h
    simp only [List.all_eq_true, decide_eq_true_eq] at h
    exact ⟨fun e => by simp at e, fun ⟨h', _⟩ => absurd h' h⟩

theorem storeAt_wf {m m' : Memory} (h : m.wf) {size : Nat} {offs : List Nat} {bytes : List Byte}
    (hs : m.storeAt size offs bytes = some m') : m'.wf :=
  (storeAt_eq_some.mp hs).2 ▸ writeAll_wf h _

theorem byteAt_of_read? {m : Memory} {off : Nat} {b : Byte} (h : m.read? off = some b) (stamp : Nat) :
    m.byteAt stamp off = b := by simp [byteAt, h]

end Sys2Proof.Machine.Memory
end

