-- ==== Sys2Proof/Laws/State.lean ====
section
/-! SUPPORT. What each named update of State leaves and writes, field by field, so that no proof unfolds an update. -/

namespace Sys2Proof.Machine.State

/-! ## Ports -/

@[simp] theorem setPort_cfg (s : State) (p : Port) (u : PortUnit) : (s.setPort p u).cfg = s.cfg := by cases p <;> rfl
@[simp] theorem setPort_live (s : State) (p : Port) (u : PortUnit) : (s.setPort p u).live = s.live := by cases p <;> rfl
@[simp] theorem setPort_capLog2 (s : State) (p : Port) (u : PortUnit) : (s.setPort p u).capLog2 = s.capLog2 := by cases p <;> rfl
@[simp] theorem setPort_wrPtr (s : State) (p : Port) (u : PortUnit) : (s.setPort p u).wrPtr = s.wrPtr := by cases p <;> rfl
@[simp] theorem setPort_rdPtr (s : State) (p : Port) (u : PortUnit) : (s.setPort p u).rdPtr = s.rdPtr := by cases p <;> rfl
@[simp] theorem setPort_storage (s : State) (p : Port) (u : PortUnit) : (s.setPort p u).storage = s.storage := by cases p <;> rfl
@[simp] theorem setPort_rdSeen (s : State) (p : Port) (u : PortUnit) : (s.setPort p u).rdSeen = s.rdSeen := by cases p <;> rfl
@[simp] theorem setPort_wrSeen (s : State) (p : Port) (u : PortUnit) : (s.setPort p u).wrSeen = s.wrSeen := by cases p <;> rfl
@[simp] theorem setPort_qW (s : State) (p : Port) (u : PortUnit) : (s.setPort p u).qW = s.qW := by cases p <;> rfl
@[simp] theorem setPort_qR (s : State) (p : Port) (u : PortUnit) : (s.setPort p u).qR = s.qR := by cases p <;> rfl
@[simp] theorem setPort_faultMark (s : State) (p : Port) (u : PortUnit) : (s.setPort p u).faultMark = s.faultMark := by cases p <;> rfl
@[simp] theorem setPort_refusalMark (s : State) (p : Port) (u : PortUnit) : (s.setPort p u).refusalMark = s.refusalMark := by cases p <;> rfl
@[simp] theorem setPort_agenda (s : State) (p : Port) (u : PortUnit) : (s.setPort p u).agenda = s.agenda := by cases p <;> rfl
@[simp] theorem setPort_freeStamp (s : State) (p : Port) (u : PortUnit) : (s.setPort p u).freeStamp = s.freeStamp := by cases p <;> rfl
@[simp] theorem setPort_accepted (s : State) (p : Port) (u : PortUnit) : (s.setPort p u).accepted = s.accepted := by cases p <;> rfl
@[simp] theorem setPort_delivered (s : State) (p : Port) (u : PortUnit) : (s.setPort p u).delivered = s.delivered := by cases p <;> rfl

@[simp] theorem setPort_ctrl_prod (s : State) (u : PortUnit) : (s.setPort .ctrl u).prod = s.prod := rfl
@[simp] theorem setPort_ctrl_cons (s : State) (u : PortUnit) : (s.setPort .ctrl u).cons = s.cons := rfl
@[simp] theorem setPort_ctrl_ctrl (s : State) (u : PortUnit) : (s.setPort .ctrl u).ctrl = u := rfl
@[simp] theorem setPort_prod_ctrl (s : State) (u : PortUnit) : (s.setPort .prod u).ctrl = s.ctrl := rfl
@[simp] theorem setPort_prod_cons (s : State) (u : PortUnit) : (s.setPort .prod u).cons = s.cons := rfl
@[simp] theorem setPort_prod_prod (s : State) (u : PortUnit) : (s.setPort .prod u).prod = u := rfl
@[simp] theorem setPort_cons_ctrl (s : State) (u : PortUnit) : (s.setPort .cons u).ctrl = s.ctrl := rfl
@[simp] theorem setPort_cons_prod (s : State) (u : PortUnit) : (s.setPort .cons u).prod = s.prod := rfl
@[simp] theorem setPort_cons_cons (s : State) (u : PortUnit) : (s.setPort .cons u).cons = u := rfl
@[simp] theorem port_ctrl (s : State) : s.port .ctrl = s.ctrl := rfl
@[simp] theorem port_prod (s : State) : s.port .prod = s.prod := rfl
@[simp] theorem port_cons (s : State) : s.port .cons = s.cons := rfl

@[simp] theorem port_setPort_same (s : State) (p : Port) (u : PortUnit) : (s.setPort p u).port p = u := by cases p <;> rfl

theorem port_setPort_other (s : State) (p q : Port) (u : PortUnit) (h : q ≠ p) : (s.setPort p u).port q = s.port q := by
  cases p <;> cases q <;> first | rfl | exact absurd rfl h

/-! ## Responses -/

@[simp] theorem respond_cfg (s : State) (p : Port) (st : Status) (v : Nat) (d : List Byte) : (s.respond p st v d).cfg = s.cfg := by cases p <;> rfl
@[simp] theorem respond_live (s : State) (p : Port) (st : Status) (v : Nat) (d : List Byte) : (s.respond p st v d).live = s.live := by cases p <;> rfl
@[simp] theorem respond_capLog2 (s : State) (p : Port) (st : Status) (v : Nat) (d : List Byte) : (s.respond p st v d).capLog2 = s.capLog2 := by cases p <;> rfl
@[simp] theorem respond_wrPtr (s : State) (p : Port) (st : Status) (v : Nat) (d : List Byte) : (s.respond p st v d).wrPtr = s.wrPtr := by cases p <;> rfl
@[simp] theorem respond_rdPtr (s : State) (p : Port) (st : Status) (v : Nat) (d : List Byte) : (s.respond p st v d).rdPtr = s.rdPtr := by cases p <;> rfl
@[simp] theorem respond_storage (s : State) (p : Port) (st : Status) (v : Nat) (d : List Byte) : (s.respond p st v d).storage = s.storage := by cases p <;> rfl
@[simp] theorem respond_rdSeen (s : State) (p : Port) (st : Status) (v : Nat) (d : List Byte) : (s.respond p st v d).rdSeen = s.rdSeen := by cases p <;> rfl
@[simp] theorem respond_wrSeen (s : State) (p : Port) (st : Status) (v : Nat) (d : List Byte) : (s.respond p st v d).wrSeen = s.wrSeen := by cases p <;> rfl
@[simp] theorem respond_qW (s : State) (p : Port) (st : Status) (v : Nat) (d : List Byte) : (s.respond p st v d).qW = s.qW := by cases p <;> rfl
@[simp] theorem respond_qR (s : State) (p : Port) (st : Status) (v : Nat) (d : List Byte) : (s.respond p st v d).qR = s.qR := by cases p <;> rfl
@[simp] theorem respond_faultMark (s : State) (p : Port) (st : Status) (v : Nat) (d : List Byte) : (s.respond p st v d).faultMark = s.faultMark := by cases p <;> rfl
@[simp] theorem respond_refusalMark (s : State) (p : Port) (st : Status) (v : Nat) (d : List Byte) : (s.respond p st v d).refusalMark = s.refusalMark := by cases p <;> rfl
@[simp] theorem respond_agenda (s : State) (p : Port) (st : Status) (v : Nat) (d : List Byte) : (s.respond p st v d).agenda = s.agenda := by cases p <;> rfl
@[simp] theorem respond_freeStamp (s : State) (p : Port) (st : Status) (v : Nat) (d : List Byte) : (s.respond p st v d).freeStamp = s.freeStamp := by cases p <;> rfl
@[simp] theorem respond_accepted (s : State) (p : Port) (st : Status) (v : Nat) (d : List Byte) : (s.respond p st v d).accepted = s.accepted := by cases p <;> rfl
@[simp] theorem respond_delivered (s : State) (p : Port) (st : Status) (v : Nat) (d : List Byte) : (s.respond p st v d).delivered = s.delivered := by cases p <;> rfl

@[simp] theorem port_respond_same (s : State) (p : Port) (st : Status) (v : Nat) (d : List Byte) :
    (s.respond p st v d).port p = (s.port p).answer st v d := by cases p <;> rfl

theorem port_respond_other (s : State) (p q : Port) (st : Status) (v : Nat) (d : List Byte) (h : q ≠ p) :
    (s.respond p st v d).port q = s.port q := port_setPort_other s p q _ h

@[simp] theorem respond_ctrl_prod (s : State) (st : Status) (v : Nat) (d : List Byte) :
    (s.respond .ctrl st v d).prod = s.prod := rfl
@[simp] theorem respond_ctrl_cons (s : State) (st : Status) (v : Nat) (d : List Byte) :
    (s.respond .ctrl st v d).cons = s.cons := rfl
@[simp] theorem respond_prod_ctrl (s : State) (st : Status) (v : Nat) (d : List Byte) :
    (s.respond .prod st v d).ctrl = s.ctrl := rfl
@[simp] theorem respond_prod_cons (s : State) (st : Status) (v : Nat) (d : List Byte) :
    (s.respond .prod st v d).cons = s.cons := rfl
@[simp] theorem respond_cons_ctrl (s : State) (st : Status) (v : Nat) (d : List Byte) :
    (s.respond .cons st v d).ctrl = s.ctrl := rfl
@[simp] theorem respond_cons_prod (s : State) (st : Status) (v : Nat) (d : List Byte) :
    (s.respond .cons st v d).prod = s.prod := rfl

@[simp] theorem answer_state (u : PortUnit) (st : Status) (v : Nat) (d : List Byte) : (u.answer st v d).state = .idle := rfl
@[simp] theorem answer_stream (u : PortUnit) (st : Status) (v : Nat) (d : List Byte) : (u.answer st v d).stream = u.stream := rfl
@[simp] theorem answer_responses (u : PortUnit) (st : Status) (v : Nat) (d : List Byte) :
    (u.answer st v d).responses = u.responses ++ [{ word := responseWord st v, data := d }] := rfl

@[simp] theorem withdrawn_state (u : PortUnit) : u.withdrawn.state = .idle := by
  unfold PortUnit.withdrawn
  split
  · assumption
  · rfl

@[simp] theorem withdrawn_responses (u : PortUnit) : u.withdrawn.responses = u.responses := by
  unfold PortUnit.withdrawn
  split <;> rfl

theorem withdrawn_idle {u : PortUnit} (h : u.state = .idle) : u.withdrawn = u := by simp [PortUnit.withdrawn, h]

theorem withdrawn_busy {u : PortUnit} {t : Transaction} (h : u.state = .busy t) :
    u.withdrawn = { u with state := .idle, stream := t :: u.stream } := by simp [PortUnit.withdrawn, h]

/-- An extended stream is an update of the port's unit, so that the laws of `setPort` apply. -/
theorem extend_eq_setPort (s : State) (p : Port) (t : Transaction) :
    s.extend p t = s.setPort p { (s.port p) with stream := (s.port p).stream ++ [t] } := rfl

/-! ## Publication -/

@[simp] theorem publishWr_cfg (s : State) (v : Nat) : (s.publishWr v).cfg = s.cfg := by unfold publishWr; cases s.cfg.crossing <;> rfl
@[simp] theorem publishWr_live (s : State) (v : Nat) : (s.publishWr v).live = s.live := by unfold publishWr; cases s.cfg.crossing <;> rfl
@[simp] theorem publishWr_capLog2 (s : State) (v : Nat) : (s.publishWr v).capLog2 = s.capLog2 := by unfold publishWr; cases s.cfg.crossing <;> rfl
@[simp] theorem publishWr_rdPtr (s : State) (v : Nat) : (s.publishWr v).rdPtr = s.rdPtr := by unfold publishWr; cases s.cfg.crossing <;> rfl
@[simp] theorem publishWr_storage (s : State) (v : Nat) : (s.publishWr v).storage = s.storage := by unfold publishWr; cases s.cfg.crossing <;> rfl
@[simp] theorem publishWr_rdSeen (s : State) (v : Nat) : (s.publishWr v).rdSeen = s.rdSeen := by unfold publishWr; cases s.cfg.crossing <;> rfl
@[simp] theorem publishWr_qR (s : State) (v : Nat) : (s.publishWr v).qR = s.qR := by unfold publishWr; cases s.cfg.crossing <;> rfl
@[simp] theorem publishWr_ctrl (s : State) (v : Nat) : (s.publishWr v).ctrl = s.ctrl := by unfold publishWr; cases s.cfg.crossing <;> rfl
@[simp] theorem publishWr_prod (s : State) (v : Nat) : (s.publishWr v).prod = s.prod := by unfold publishWr; cases s.cfg.crossing <;> rfl
@[simp] theorem publishWr_cons (s : State) (v : Nat) : (s.publishWr v).cons = s.cons := by unfold publishWr; cases s.cfg.crossing <;> rfl
@[simp] theorem publishWr_faultMark (s : State) (v : Nat) : (s.publishWr v).faultMark = s.faultMark := by unfold publishWr; cases s.cfg.crossing <;> rfl
@[simp] theorem publishWr_refusalMark (s : State) (v : Nat) : (s.publishWr v).refusalMark = s.refusalMark := by unfold publishWr; cases s.cfg.crossing <;> rfl
@[simp] theorem publishWr_agenda (s : State) (v : Nat) : (s.publishWr v).agenda = s.agenda := by unfold publishWr; cases s.cfg.crossing <;> rfl
@[simp] theorem publishWr_freeStamp (s : State) (v : Nat) : (s.publishWr v).freeStamp = s.freeStamp := by unfold publishWr; cases s.cfg.crossing <;> rfl
@[simp] theorem publishWr_accepted (s : State) (v : Nat) : (s.publishWr v).accepted = s.accepted := by unfold publishWr; cases s.cfg.crossing <;> rfl
@[simp] theorem publishWr_delivered (s : State) (v : Nat) : (s.publishWr v).delivered = s.delivered := by unfold publishWr; cases s.cfg.crossing <;> rfl

@[simp] theorem publishWr_wrPtr (s : State) (v : Nat) : (s.publishWr v).wrPtr = wrWidth s.cfg v := by unfold publishWr; cases s.cfg.crossing <;> rfl

@[simp] theorem publishRd_cfg (s : State) (v : Nat) : (s.publishRd v).cfg = s.cfg := by unfold publishRd; cases s.cfg.crossing <;> rfl
@[simp] theorem publishRd_live (s : State) (v : Nat) : (s.publishRd v).live = s.live := by unfold publishRd; cases s.cfg.crossing <;> rfl
@[simp] theorem publishRd_capLog2 (s : State) (v : Nat) : (s.publishRd v).capLog2 = s.capLog2 := by unfold publishRd; cases s.cfg.crossing <;> rfl
@[simp] theorem publishRd_wrPtr (s : State) (v : Nat) : (s.publishRd v).wrPtr = s.wrPtr := by unfold publishRd; cases s.cfg.crossing <;> rfl
@[simp] theorem publishRd_storage (s : State) (v : Nat) : (s.publishRd v).storage = s.storage := by unfold publishRd; cases s.cfg.crossing <;> rfl
@[simp] theorem publishRd_wrSeen (s : State) (v : Nat) : (s.publishRd v).wrSeen = s.wrSeen := by unfold publishRd; cases s.cfg.crossing <;> rfl
@[simp] theorem publishRd_qW (s : State) (v : Nat) : (s.publishRd v).qW = s.qW := by unfold publishRd; cases s.cfg.crossing <;> rfl
@[simp] theorem publishRd_ctrl (s : State) (v : Nat) : (s.publishRd v).ctrl = s.ctrl := by unfold publishRd; cases s.cfg.crossing <;> rfl
@[simp] theorem publishRd_prod (s : State) (v : Nat) : (s.publishRd v).prod = s.prod := by unfold publishRd; cases s.cfg.crossing <;> rfl
@[simp] theorem publishRd_cons (s : State) (v : Nat) : (s.publishRd v).cons = s.cons := by unfold publishRd; cases s.cfg.crossing <;> rfl
@[simp] theorem publishRd_faultMark (s : State) (v : Nat) : (s.publishRd v).faultMark = s.faultMark := by unfold publishRd; cases s.cfg.crossing <;> rfl
@[simp] theorem publishRd_refusalMark (s : State) (v : Nat) : (s.publishRd v).refusalMark = s.refusalMark := by unfold publishRd; cases s.cfg.crossing <;> rfl
@[simp] theorem publishRd_agenda (s : State) (v : Nat) : (s.publishRd v).agenda = s.agenda := by unfold publishRd; cases s.cfg.crossing <;> rfl
@[simp] theorem publishRd_freeStamp (s : State) (v : Nat) : (s.publishRd v).freeStamp = s.freeStamp := by unfold publishRd; cases s.cfg.crossing <;> rfl
@[simp] theorem publishRd_accepted (s : State) (v : Nat) : (s.publishRd v).accepted = s.accepted := by unfold publishRd; cases s.cfg.crossing <;> rfl
@[simp] theorem publishRd_delivered (s : State) (v : Nat) : (s.publishRd v).delivered = s.delivered := by unfold publishRd; cases s.cfg.crossing <;> rfl

@[simp] theorem publishRd_rdPtr (s : State) (v : Nat) : (s.publishRd v).rdPtr = rdWidth s.cfg v := by unfold publishRd; cases s.cfg.crossing <;> rfl

theorem publishWr_async (s : State) (v : Nat) (h : s.cfg.crossing = .async) :
    s.publishWr v = { s with wrPtr := wrWidth s.cfg v, qW := s.qW ++ [wrWidth s.cfg v] } := by simp only [publishWr, h]

theorem publishWr_sync (s : State) (v : Nat) (h : s.cfg.crossing = .sync) :
    s.publishWr v = { s with wrPtr := wrWidth s.cfg v, wrSeen := wrWidth s.cfg v } := by simp only [publishWr, h]

theorem publishRd_async (s : State) (v : Nat) (h : s.cfg.crossing = .async) :
    s.publishRd v = { s with rdPtr := rdWidth s.cfg v, qR := s.qR ++ [rdWidth s.cfg v] } := by simp only [publishRd, h]

theorem publishRd_sync (s : State) (v : Nat) (h : s.cfg.crossing = .sync) :
    s.publishRd v = { s with rdPtr := rdWidth s.cfg v, rdSeen := rdWidth s.cfg v } := by simp only [publishRd, h]

/-! ## Construction, loss of the instance, hardware reset -/

@[simp] theorem construct_cfg (s : State) (k : Nat) : (s.construct k).cfg = s.cfg := rfl
@[simp] theorem construct_ctrl (s : State) (k : Nat) : (s.construct k).ctrl = s.ctrl := rfl
@[simp] theorem construct_prod (s : State) (k : Nat) : (s.construct k).prod = s.prod.withdrawn := rfl
@[simp] theorem construct_cons (s : State) (k : Nat) : (s.construct k).cons = s.cons.withdrawn := rfl
@[simp] theorem construct_faultMark (s : State) (k : Nat) : (s.construct k).faultMark = s.faultMark := rfl
@[simp] theorem construct_refusalMark (s : State) (k : Nat) : (s.construct k).refusalMark = s.refusalMark := rfl
@[simp] theorem construct_agenda (s : State) (k : Nat) : (s.construct k).agenda = s.agenda := rfl

@[simp] theorem construct_live (s : State) (k : Nat) : (s.construct k).live = true := rfl
@[simp] theorem construct_capLog2 (s : State) (k : Nat) : (s.construct k).capLog2 = BitVec.ofNat 5 k := rfl
@[simp] theorem construct_wrPtr (s : State) (k : Nat) : (s.construct k).wrPtr = wrWidth s.cfg (2 * 2 ^ k) := rfl
@[simp] theorem construct_rdPtr (s : State) (k : Nat) : (s.construct k).rdPtr = 0 := rfl
@[simp] theorem construct_wrSeen (s : State) (k : Nat) : (s.construct k).wrSeen = wrWidth s.cfg (2 * 2 ^ k) := rfl
@[simp] theorem construct_rdSeen (s : State) (k : Nat) : (s.construct k).rdSeen = 0 := rfl
@[simp] theorem construct_qW (s : State) (k : Nat) : (s.construct k).qW = [] := rfl
@[simp] theorem construct_qR (s : State) (k : Nat) : (s.construct k).qR = [] := rfl
@[simp] theorem construct_storage (s : State) (k : Nat) : (s.construct k).storage = [] := rfl
@[simp] theorem construct_accepted (s : State) (k : Nat) : (s.construct k).accepted = [] := rfl
@[simp] theorem construct_delivered (s : State) (k : Nat) : (s.construct k).delivered = [] := rfl
@[simp] theorem construct_freeStamp (s : State) (k : Nat) : (s.construct k).freeStamp = s.freeStamp + 1 := rfl

@[simp] theorem dropInstance_cfg (s : State) : (s.dropInstance).cfg = s.cfg := rfl
@[simp] theorem dropInstance_ctrl (s : State) : (s.dropInstance).ctrl = s.ctrl := rfl
@[simp] theorem dropInstance_prod (s : State) : (s.dropInstance).prod = s.prod := rfl
@[simp] theorem dropInstance_cons (s : State) : (s.dropInstance).cons = s.cons := rfl
@[simp] theorem dropInstance_faultMark (s : State) : (s.dropInstance).faultMark = s.faultMark := rfl
@[simp] theorem dropInstance_refusalMark (s : State) : (s.dropInstance).refusalMark = s.refusalMark := rfl
@[simp] theorem dropInstance_agenda (s : State) : (s.dropInstance).agenda = s.agenda := rfl

@[simp] theorem dropInstance_live (s : State) : (s.dropInstance).live = false := rfl
@[simp] theorem dropInstance_qW (s : State) : (s.dropInstance).qW = [] := rfl
@[simp] theorem dropInstance_qR (s : State) : (s.dropInstance).qR = [] := rfl
@[simp] theorem dropInstance_storage (s : State) : (s.dropInstance).storage = [] := rfl
@[simp] theorem dropInstance_accepted (s : State) : (s.dropInstance).accepted = s.accepted := rfl
@[simp] theorem dropInstance_delivered (s : State) : (s.dropInstance).delivered = s.delivered := rfl
@[simp] theorem dropInstance_freeStamp (s : State) : (s.dropInstance).freeStamp = s.freeStamp + 1 := rfl

@[simp] theorem hardwareReset_cfg (s : State) : (s.hardwareReset).cfg = s.cfg := rfl
@[simp] theorem hardwareReset_faultMark (s : State) : (s.hardwareReset).faultMark = s.faultMark := rfl
@[simp] theorem hardwareReset_refusalMark (s : State) : (s.hardwareReset).refusalMark = s.refusalMark := rfl
@[simp] theorem hardwareReset_agenda (s : State) : (s.hardwareReset).agenda = s.agenda := rfl

@[simp] theorem hardwareReset_live (s : State) : (s.hardwareReset).live = false := rfl
@[simp] theorem hardwareReset_qW (s : State) : (s.hardwareReset).qW = [] := rfl
@[simp] theorem hardwareReset_qR (s : State) : (s.hardwareReset).qR = [] := rfl
@[simp] theorem hardwareReset_storage (s : State) : (s.hardwareReset).storage = [] := rfl
@[simp] theorem hardwareReset_accepted (s : State) : (s.hardwareReset).accepted = s.accepted := rfl
@[simp] theorem hardwareReset_delivered (s : State) : (s.hardwareReset).delivered = s.delivered := rfl
@[simp] theorem hardwareReset_freeStamp (s : State) : (s.hardwareReset).freeStamp = s.freeStamp + 1 := rfl

theorem port_hardwareReset (s : State) (p : Port) : (s.hardwareReset).port p = { s.port p with state := .idle } := by
  cases p <;> rfl

/-! ## The crossing -/

@[simp] theorem stepXW_cfg (s : State) : (s.stepXW).cfg = s.cfg := by unfold stepXW; split <;> rfl
@[simp] theorem stepXW_live (s : State) : (s.stepXW).live = s.live := by unfold stepXW; split <;> rfl
@[simp] theorem stepXW_capLog2 (s : State) : (s.stepXW).capLog2 = s.capLog2 := by unfold stepXW; split <;> rfl
@[simp] theorem stepXW_wrPtr (s : State) : (s.stepXW).wrPtr = s.wrPtr := by unfold stepXW; split <;> rfl
@[simp] theorem stepXW_rdPtr (s : State) : (s.stepXW).rdPtr = s.rdPtr := by unfold stepXW; split <;> rfl
@[simp] theorem stepXW_storage (s : State) : (s.stepXW).storage = s.storage := by unfold stepXW; split <;> rfl
@[simp] theorem stepXW_rdSeen (s : State) : (s.stepXW).rdSeen = s.rdSeen := by unfold stepXW; split <;> rfl
@[simp] theorem stepXW_qR (s : State) : (s.stepXW).qR = s.qR := by unfold stepXW; split <;> rfl
@[simp] theorem stepXW_ctrl (s : State) : (s.stepXW).ctrl = s.ctrl := by unfold stepXW; split <;> rfl
@[simp] theorem stepXW_prod (s : State) : (s.stepXW).prod = s.prod := by unfold stepXW; split <;> rfl
@[simp] theorem stepXW_cons (s : State) : (s.stepXW).cons = s.cons := by unfold stepXW; split <;> rfl
@[simp] theorem stepXW_faultMark (s : State) : (s.stepXW).faultMark = s.faultMark := by unfold stepXW; split <;> rfl
@[simp] theorem stepXW_refusalMark (s : State) : (s.stepXW).refusalMark = s.refusalMark := by unfold stepXW; split <;> rfl
@[simp] theorem stepXW_agenda (s : State) : (s.stepXW).agenda = s.agenda := by unfold stepXW; split <;> rfl
@[simp] theorem stepXW_freeStamp (s : State) : (s.stepXW).freeStamp = s.freeStamp := by unfold stepXW; split <;> rfl
@[simp] theorem stepXW_accepted (s : State) : (s.stepXW).accepted = s.accepted := by unfold stepXW; split <;> rfl
@[simp] theorem stepXW_delivered (s : State) : (s.stepXW).delivered = s.delivered := by unfold stepXW; split <;> rfl

@[simp] theorem stepXR_cfg (s : State) : (s.stepXR).cfg = s.cfg := by unfold stepXR; split <;> rfl
@[simp] theorem stepXR_live (s : State) : (s.stepXR).live = s.live := by unfold stepXR; split <;> rfl
@[simp] theorem stepXR_capLog2 (s : State) : (s.stepXR).capLog2 = s.capLog2 := by unfold stepXR; split <;> rfl
@[simp] theorem stepXR_wrPtr (s : State) : (s.stepXR).wrPtr = s.wrPtr := by unfold stepXR; split <;> rfl
@[simp] theorem stepXR_rdPtr (s : State) : (s.stepXR).rdPtr = s.rdPtr := by unfold stepXR; split <;> rfl
@[simp] theorem stepXR_storage (s : State) : (s.stepXR).storage = s.storage := by unfold stepXR; split <;> rfl
@[simp] theorem stepXR_wrSeen (s : State) : (s.stepXR).wrSeen = s.wrSeen := by unfold stepXR; split <;> rfl
@[simp] theorem stepXR_qW (s : State) : (s.stepXR).qW = s.qW := by unfold stepXR; split <;> rfl
@[simp] theorem stepXR_ctrl (s : State) : (s.stepXR).ctrl = s.ctrl := by unfold stepXR; split <;> rfl
@[simp] theorem stepXR_prod (s : State) : (s.stepXR).prod = s.prod := by unfold stepXR; split <;> rfl
@[simp] theorem stepXR_cons (s : State) : (s.stepXR).cons = s.cons := by unfold stepXR; split <;> rfl
@[simp] theorem stepXR_faultMark (s : State) : (s.stepXR).faultMark = s.faultMark := by unfold stepXR; split <;> rfl
@[simp] theorem stepXR_refusalMark (s : State) : (s.stepXR).refusalMark = s.refusalMark := by unfold stepXR; split <;> rfl
@[simp] theorem stepXR_agenda (s : State) : (s.stepXR).agenda = s.agenda := by unfold stepXR; split <;> rfl
@[simp] theorem stepXR_freeStamp (s : State) : (s.stepXR).freeStamp = s.freeStamp := by unfold stepXR; split <;> rfl
@[simp] theorem stepXR_accepted (s : State) : (s.stepXR).accepted = s.accepted := by unfold stepXR; split <;> rfl
@[simp] theorem stepXR_delivered (s : State) : (s.stepXR).delivered = s.delivered := by unfold stepXR; split <;> rfl

/-! ## Marks -/

@[simp] theorem recordFault_cfg (s : State) (f : Fault) : (s.recordFault f).cfg = s.cfg := rfl
@[simp] theorem recordFault_live (s : State) (f : Fault) : (s.recordFault f).live = s.live := rfl
@[simp] theorem recordFault_capLog2 (s : State) (f : Fault) : (s.recordFault f).capLog2 = s.capLog2 := rfl
@[simp] theorem recordFault_wrPtr (s : State) (f : Fault) : (s.recordFault f).wrPtr = s.wrPtr := rfl
@[simp] theorem recordFault_rdPtr (s : State) (f : Fault) : (s.recordFault f).rdPtr = s.rdPtr := rfl
@[simp] theorem recordFault_storage (s : State) (f : Fault) : (s.recordFault f).storage = s.storage := rfl
@[simp] theorem recordFault_rdSeen (s : State) (f : Fault) : (s.recordFault f).rdSeen = s.rdSeen := rfl
@[simp] theorem recordFault_wrSeen (s : State) (f : Fault) : (s.recordFault f).wrSeen = s.wrSeen := rfl
@[simp] theorem recordFault_qW (s : State) (f : Fault) : (s.recordFault f).qW = s.qW := rfl
@[simp] theorem recordFault_qR (s : State) (f : Fault) : (s.recordFault f).qR = s.qR := rfl
@[simp] theorem recordFault_ctrl (s : State) (f : Fault) : (s.recordFault f).ctrl = s.ctrl := rfl
@[simp] theorem recordFault_prod (s : State) (f : Fault) : (s.recordFault f).prod = s.prod := rfl
@[simp] theorem recordFault_cons (s : State) (f : Fault) : (s.recordFault f).cons = s.cons := rfl
@[simp] theorem recordFault_refusalMark (s : State) (f : Fault) : (s.recordFault f).refusalMark = s.refusalMark := rfl
@[simp] theorem recordFault_agenda (s : State) (f : Fault) : (s.recordFault f).agenda = s.agenda := rfl
@[simp] theorem recordFault_freeStamp (s : State) (f : Fault) : (s.recordFault f).freeStamp = s.freeStamp := rfl
@[simp] theorem recordFault_accepted (s : State) (f : Fault) : (s.recordFault f).accepted = s.accepted := rfl
@[simp] theorem recordFault_delivered (s : State) (f : Fault) : (s.recordFault f).delivered = s.delivered := rfl

@[simp] theorem recordRefusal_cfg (s : State) (r : Refusal) : (s.recordRefusal r).cfg = s.cfg := rfl
@[simp] theorem recordRefusal_live (s : State) (r : Refusal) : (s.recordRefusal r).live = s.live := rfl
@[simp] theorem recordRefusal_capLog2 (s : State) (r : Refusal) : (s.recordRefusal r).capLog2 = s.capLog2 := rfl
@[simp] theorem recordRefusal_wrPtr (s : State) (r : Refusal) : (s.recordRefusal r).wrPtr = s.wrPtr := rfl
@[simp] theorem recordRefusal_rdPtr (s : State) (r : Refusal) : (s.recordRefusal r).rdPtr = s.rdPtr := rfl
@[simp] theorem recordRefusal_storage (s : State) (r : Refusal) : (s.recordRefusal r).storage = s.storage := rfl
@[simp] theorem recordRefusal_rdSeen (s : State) (r : Refusal) : (s.recordRefusal r).rdSeen = s.rdSeen := rfl
@[simp] theorem recordRefusal_wrSeen (s : State) (r : Refusal) : (s.recordRefusal r).wrSeen = s.wrSeen := rfl
@[simp] theorem recordRefusal_qW (s : State) (r : Refusal) : (s.recordRefusal r).qW = s.qW := rfl
@[simp] theorem recordRefusal_qR (s : State) (r : Refusal) : (s.recordRefusal r).qR = s.qR := rfl
@[simp] theorem recordRefusal_ctrl (s : State) (r : Refusal) : (s.recordRefusal r).ctrl = s.ctrl := rfl
@[simp] theorem recordRefusal_prod (s : State) (r : Refusal) : (s.recordRefusal r).prod = s.prod := rfl
@[simp] theorem recordRefusal_cons (s : State) (r : Refusal) : (s.recordRefusal r).cons = s.cons := rfl
@[simp] theorem recordRefusal_faultMark (s : State) (r : Refusal) : (s.recordRefusal r).faultMark = s.faultMark := rfl
@[simp] theorem recordRefusal_agenda (s : State) (r : Refusal) : (s.recordRefusal r).agenda = s.agenda := rfl
@[simp] theorem recordRefusal_freeStamp (s : State) (r : Refusal) : (s.recordRefusal r).freeStamp = s.freeStamp := rfl
@[simp] theorem recordRefusal_accepted (s : State) (r : Refusal) : (s.recordRefusal r).accepted = s.accepted := rfl
@[simp] theorem recordRefusal_delivered (s : State) (r : Refusal) : (s.recordRefusal r).delivered = s.delivered := rfl

end Sys2Proof.Machine.State
end

