-- ==== Sys2Proof/Laws/Ops.lean ====
section
/-! SUPPORT. One lemma per shared operation, meaning and step that says once everything it can do when it answers a next
state; proofs cite these and do not unfold the definitions again. -/

namespace Sys2Proof.Machine

/-! ## The shared operations -/

theorem raise_ne_next {kind : Port → Word → Fault} {i : Instr} {t : State} : raise kind i ≠ .next t := by
  simp [raise]

theorem stepXW_cases (s : State) :
    (∃ v rest, s.cfg.crossing = .async ∧ s.qW = v :: rest ∧ s.stepXW = { s with wrSeen := v, qW := rest }) ∨
    ((s.cfg.crossing = .sync ∨ s.qW = []) ∧ s.stepXW = s) := by
  unfold State.stepXW
  split
  · rename_i v rest hc hq
    exact .inl ⟨v, rest, hc, hq, rfl⟩
  · rename_i h
    refine .inr ⟨?_, rfl⟩
    cases hc : s.cfg.crossing with
    | sync => exact .inl rfl
    | async =>
      cases hq : s.qW with
      | nil => exact .inr rfl
      | cons v rest => exact absurd hq (h v rest hc)

theorem stepXR_cases (s : State) :
    (∃ v rest, s.cfg.crossing = .async ∧ s.qR = v :: rest ∧ s.stepXR = { s with rdSeen := v, qR := rest }) ∨
    ((s.cfg.crossing = .sync ∨ s.qR = []) ∧ s.stepXR = s) := by
  unfold State.stepXR
  split
  · rename_i v rest hc hq
    exact .inl ⟨v, rest, hc, hq, rfl⟩
  · rename_i h
    refine .inr ⟨?_, rfl⟩
    cases hc : s.cfg.crossing with
    | sync => exact .inl rfl
    | async =>
      cases hq : s.qR with
      | nil => exact .inr rfl
      | cons v rest => exact absurd hq (h v rest hc)

theorem issue_cases {s t : State} {p : Port} (h : s.issue p = .next t) :
    (∃ tr rest, (s.port p).state = .idle ∧ (s.port p).stream = tr :: rest ∧ tr.wellFormed p = true ∧
      t = s.setPort p { (s.port p) with state := .busy tr, stream := rest }) ∨ t = s := by
  unfold State.issue at h
  split at h
  · rename_i tr rest hstate hstream
    split at h
    · rename_i hwf
      exact .inl ⟨tr, rest, hstate, hstream, hwf, (Host.Outcome.next.inj h).symm⟩
    · cases h
  · exact .inr (Host.Outcome.next.inj h).symm

/-- Only a WRITE on PROD carries a payload (R68). -/
theorem payloadLength_prod_write {w : Word} {len : Nat} (h : decode .prod w = .ok (.write len)) :
    payloadLength .prod w = len := by simp [payloadLength, h]

/-! ## The meanings -/

theorem execCreate_cases {req : Nat} {s t : State} (h : execCreate req s = .next t) :
    s.live = false ∧
    ((s.storeSize < capRound req ∧ t = s.respond .ctrl .allocFail 0 []) ∨
     (capRound req ≤ s.storeSize ∧
       t = (s.construct (capRoundLog2 req)).respond .ctrl .ok (capRound req) [])) := by
  unfold execCreate at h
  split at h
  · exact absurd h raise_ne_next
  · rename_i hlive
    refine ⟨by simpa using hlive, ?_⟩
    split at h
    · rename_i hbig
      exact .inl ⟨hbig, (Host.Outcome.next.inj h).symm⟩
    · rename_i hbig
      exact .inr ⟨Nat.le_of_not_lt hbig, (Host.Outcome.next.inj h).symm⟩

theorem execCapq_cases {s t : State} (h : execCapq s = .next t) :
    s.live = true ∧ t = s.respond .ctrl .ok s.cap [] := by
  unfold execCapq at h
  split at h
  · rename_i hlive
    exact ⟨hlive, (Host.Outcome.next.inj h).symm⟩
  · exact absurd h raise_ne_next

theorem execRelease_cases {s t : State} (h : execRelease s = .next t) :
    s.live = true ∧ s.prod.state = .idle ∧ s.cons.state = .idle ∧ t = s.dropInstance.respond .ctrl .ok 0 [] := by
  unfold execRelease at h
  split at h
  · exact absurd h raise_ne_next
  · rename_i hlive
    split at h
    · exact absurd h raise_ne_next
    · rename_i hidle
      simp only [ne_eq, not_or, not_not] at hidle
      exact ⟨by simpa using hlive, hidle.1, hidle.2, (Host.Outcome.next.inj h).symm⟩

/-- A WRITE that answers a next state was a no-op, would block, or moved `n >= 1` bytes (R92, R93, R91). -/
theorem execWrite_cases {len : Nat} {s t : State} (h : execWrite len s = .next t) :
    s.prod.payload.length = len ∧ s.live = true ∧
    ((len = 0 ∧ t = s.respond .prod .ok 0 []) ∨
     (len ≠ 0 ∧ s.occProducer ≤ s.cap ∧ s.freeProducer = 0 ∧ t = s.respond .prod .wouldBlock 0 []) ∨
     (len ≠ 0 ∧ s.occProducer ≤ s.cap ∧ s.freeProducer ≠ 0 ∧ (∀ off ∈ s.writeOffsets len, off < s.storeSize) ∧
       t = (State.publishWr
          { s with
            storage := s.storage.writeAll ((s.writeOffsets len).zip (s.prod.payload.take (s.writeCount len)))
            accepted := s.accepted ++ s.prod.payload.take (s.writeCount len) }
          (foldWr s.cap s.wrPtr (s.writeCount len))).respond .prod .ok (s.writeCount len) [])) := by
  unfold execWrite at h
  split at h
  · cases h
  · rename_i hlen
    split at h
    · exact absurd h raise_ne_next
    · rename_i hlive
      refine ⟨not_not.mp hlen, by simpa using hlive, ?_⟩
      split at h
      · rename_i hzero
        exact .inl ⟨hzero, (Host.Outcome.next.inj h).symm⟩
      · rename_i hzero
        split at h
        · exact absurd h raise_ne_next
        · rename_i hocc
          split at h
          · rename_i hfull
            exact .inr (.inl ⟨hzero, Nat.le_of_not_lt hocc, hfull, (Host.Outcome.next.inj h).symm⟩)
          · rename_i hfull
            dsimp only at h
            split at h
            · exact absurd h raise_ne_next
            · rename_i m hstore
              obtain ⟨hin, rfl⟩ := Memory.storeAt_eq_some.mp hstore
              exact .inr (.inr ⟨hzero, Nat.le_of_not_lt hocc, hfull, hin, (Host.Outcome.next.inj h).symm⟩)

/-- A READ that answers a next state was a no-op, would block, or moved `n >= 1` bytes (R102, R103, R101). -/
theorem execRead_cases {len : Nat} {s t : State} (h : execRead len s = .next t) :
    s.live = true ∧
    ((len = 0 ∧ t = s.respond .cons .ok 0 []) ∨
     (len ≠ 0 ∧ s.occConsumer = 0 ∧ t = s.respond .cons .wouldBlock 0 []) ∨
     (len ≠ 0 ∧ s.occConsumer ≤ s.cap ∧ s.occConsumer ≠ 0 ∧ (∀ off ∈ s.readOffsets len, off < s.storeSize) ∧
       t = (State.publishRd
          { s with delivered := s.delivered ++ (s.readOffsets len).map (s.storage.byteAt s.freeStamp) }
          (foldRd s.cap s.rdPtr (s.readCount len))).respond .cons .ok (s.readCount len)
            ((s.readOffsets len).map (s.storage.byteAt s.freeStamp)))) := by
  unfold execRead at h
  split at h
  · exact absurd h raise_ne_next
  · rename_i hlive
    refine ⟨by simpa using hlive, ?_⟩
    split at h
    · rename_i hzero
      exact .inl ⟨hzero, (Host.Outcome.next.inj h).symm⟩
    · rename_i hzero
      split at h
      · exact absurd h raise_ne_next
      · rename_i hocc
        split at h
        · rename_i hempty
          exact .inr (.inl ⟨hzero, hempty, (Host.Outcome.next.inj h).symm⟩)
        · rename_i hempty
          dsimp only at h
          split at h
          · exact absurd h raise_ne_next
          · rename_i bytes hload
            obtain ⟨hin, rfl⟩ := Memory.loadAt_eq_some.mp hload
            exact .inr (.inr ⟨hzero, Nat.le_of_not_lt hocc, hempty, hin, (Host.Outcome.next.inj h).symm⟩)

/-! ## The controller and the step -/

theorem executePort_cases {s t : State} {p : Port} (h : s.executePort p = .next t) :
    ((s.port p).state = .idle ∧ t = s) ∨
    (∃ tr e, (s.port p).state = .busy tr ∧ decode p tr.word = .error e ∧ t = s.respond p .illegal 0 []) ∨
    (∃ tr i, (s.port p).state = .busy tr ∧ decode p tr.word = .ok i ∧ exec i s = .next t) := by
  unfold State.executePort at h
  split at h
  · rename_i hidle
    exact .inl ⟨hidle, (Host.Outcome.next.inj h).symm⟩
  · rename_i tr hbusy
    split at h
    · rename_i e hdec
      exact .inr (.inl ⟨tr, e, hbusy, hdec, (Host.Outcome.next.inj h).symm⟩)
    · rename_i i hdec
      exact .inr (.inr ⟨tr, i, hbusy, hdec, h⟩)

/-- What one event can do when it answers a next state. -/
theorem runEvent_cases {s t : State} {e : Event} (h : s.runEvent e = .next t) :
    (∃ a, e = .agent a ∧ s.agentStep a = .next t) ∨ (∃ p, e = .execute p ∧ s.executePort p = .next t) ∨
    (∃ p tr, e = .extend p tr ∧ t = s.extend p tr) ∨
    (e = .hardwareReset ∧ t = s.hardwareReset) := by
  cases e with
  | agent a => exact .inl ⟨a, rfl, h⟩
  | execute p => exact .inr (.inl ⟨p, rfl, h⟩)
  | extend p tr => exact .inr (.inr (.inl ⟨p, tr, rfl, (Host.Outcome.next.inj h).symm⟩))
  | hardwareReset => exact .inr (.inr (.inr ⟨rfl, (Host.Outcome.next.inj h).symm⟩))
  | attachSecond side => cases h

/-- A run that has not ended runs the next event of its schedule. -/
theorem step_event {s : State} {e : Event} {rest : List Event} (hf : s.faultMark = none) (hr : s.refusalMark = none)
    (h : s.agenda = e :: rest) : step s = State.runEvent { s with agenda := rest } e := by
  simp only [step, hf, hr, h]

/-- What one step can do when it answers a next state. -/
theorem step_cases {s t : State} (h : step s = .next t) :
    s.faultMark = none ∧ s.refusalMark = none ∧
    ((s.agenda = [] ∧ t = s) ∨
     (∃ e rest, s.agenda = e :: rest ∧ State.runEvent { s with agenda := rest } e = .next t)) := by
  unfold step at h
  split at h
  · cases h
  · cases h
  · rename_i hf hr
    refine ⟨hf, hr, ?_⟩
    split at h
    · rename_i hnil
      exact .inl ⟨hnil, (Host.Outcome.next.inj h).symm⟩
    · rename_i e rest hcons
      exact .inr ⟨e, rest, hcons, h⟩

end Sys2Proof.Machine
end

