-- ==== Sys2Proof/Laws/Final.lean ====
section
/-! SUPPORT. The end of a run (R150) is an end: nothing that is still scheduled takes a final state to one that is not. -/

namespace Sys2Proof.Machine

theorem final_port {s : State} (h : s.final) (p : Port) : (s.port p).state = .idle ∧ (s.port p).stream = [] := by
  obtain ⟨⟨⟨h1, h2, h3⟩, -⟩, ⟨i1, i2, i3⟩, -⟩ := h
  cases p
  · exact ⟨i1, h1⟩
  · exact ⟨i2, h2⟩
  · exact ⟨i3, h3⟩

theorem issue_of_exhausted {s : State} {p : Port} (h : (s.port p).stream = []) : s.issue p = .next s := by
  unfold State.issue
  rw [h]
  cases (s.port p).state <;> rfl

theorem executePort_of_idle {s : State} {p : Port} (h : (s.port p).state = .idle) : s.executePort p = .next s := by
  unfold State.executePort
  rw [h]

/-- A delivery step leaves a final state as it is: there is nothing under way, or no crossing agent (R47). -/
theorem crossing_of_final {s : State} (h : s.final) : s.stepXW = s ∧ s.stepXR = s := by
  obtain ⟨-, -, hq, -⟩ := h
  rcases hq with ⟨hw, hr⟩ | hs
  · exact ⟨by simp [State.stepXW, hw], by simp [State.stepXR, hr]⟩
  · exact ⟨by simp [State.stepXW, hs], by simp [State.stepXR, hs]⟩

/-- R150: from a final state every step answers a next state, and that is final. -/
theorem final_step {s : State} (h : s.final) : ∃ t, step s = .next t ∧ t.final := by
  obtain ⟨hf, hr⟩ := h.2.2.2
  cases ha : s.agenda with
  | nil => exact ⟨s, by simp only [step, hf, hr, ha], h⟩
  | cons e rest =>
    have hwork : e.bringsWork = false := h.1.2 e (by simp [ha])
    have hu : State.final { s with agenda := rest } :=
      ⟨⟨h.1.1, fun e' he' => h.1.2 e' (by simp [ha, he'])⟩, h.2⟩
    rw [step_event hf hr ha]
    cases e with
    | agent a =>
      refine ⟨_, ?_, hu⟩
      cases a with
      | host => exact issue_of_exhausted (final_port hu .ctrl).2
      | prod => exact issue_of_exhausted (final_port hu .prod).2
      | cons => exact issue_of_exhausted (final_port hu .cons).2
      | xw => exact congrArg _ (crossing_of_final hu).1
      | xr => exact congrArg _ (crossing_of_final hu).2
    | execute p => exact ⟨_, executePort_of_idle (final_port hu p).1, hu⟩
    | hardwareReset => exact ⟨_, rfl, hu.1, ⟨rfl, rfl, rfl⟩, .inl ⟨rfl, rfl⟩, hf, hr⟩
    | extend p t => cases hwork
    | attachSecond side => cases hwork

end Sys2Proof.Machine
end

