-- ==== Sys2Proof/Laws/PerInstr.lean ====
section
/-! SUPPORT. Facts made per command of the opcode map (R63): the word a command is encoded to matches its row. -/

namespace Sys2Proof.Laws.TableRow

/-- The command's word has its row's fixed bits: `word AND mask = match` (R63). -/
def Statement (i : Instr) : Prop := encode i &&& i.rowMask = i.rowMatch

theorem create (req : Nat) : Statement (.create req) := commandWord_masked _ _

theorem release : Statement .release := by unfold Statement; decide

theorem capq : Statement .capq := by unfold Statement; decide

theorem write (len : Nat) : Statement (.write len) := commandWord_masked _ _

theorem read (len : Nat) : Statement (.read len) := commandWord_masked _ _

end Sys2Proof.Laws.TableRow
end

