-- ==== Sys2Proof/Laws/Totals.lean ====
section
/-! SUPPORT. The ghost totals and the registers that hold them modulo `2c` (R29, R30), the publications under way (R44),
and the fields of a response word (R66). -/

namespace Sys2Proof.Machine

/-! ## Values of the counters -/

theorem wrOfTotal_mod (c total : Nat) : wrOfTotal c total % (2 * c) = total % (2 * c) := by simp [wrOfTotal]

theorem rdOfTotal_mod (c total : Nat) : rdOfTotal c total % (2 * c) = total % (2 * c) := by simp [rdOfTotal]

theorem wrOfTotal_range {c : Nat} (hc : 0 < c) (total : Nat) : 2 * c ≤ wrOfTotal c total ∧ wrOfTotal c total < 4 * c := by
  have := Nat.mod_lt total (show 0 < 2 * c by omega)
  unfold wrOfTotal
  omega

theorem rdOfTotal_lt {c : Nat} (hc : 0 < c) (total : Nat) : rdOfTotal c total < 2 * c := Nat.mod_lt total (by omega)

/-- What is known modulo `2c` is known modulo `c` (R96). -/
theorem mod_cap_of_mod_two_cap {c x y : Nat} (h : x % (2 * c) = y % (2 * c)) : x % c = y % c := by
  have := congrArg (· % c) h
  simpa [Nat.mod_mod_of_dvd _ (Dvd.intro_left 2 rfl : c ∣ 2 * c)] using this

/-- The occupancy of two counters is the difference of their totals (R30). -/
theorem occupancy_of_totals {c x y : Nat} (hc : 0 < c) (hyx : y ≤ x) (hx : x ≤ y + c) :
    occupancy c (wrOfTotal c x) (rdOfTotal c y) = x - y :=
  modSub_of_totals (wrOfTotal_mod c x) (rdOfTotal_mod c y) hyx (by omega)

theorem wrWidth_lt (cfg : Config) (v : Nat) : wrWidth cfg v < 2 ^ (cfg.maxLog2 + 2) := Nat.mod_lt _ (two_pow_pos _)

theorem rdWidth_lt (cfg : Config) (v : Nat) : rdWidth cfg v < 2 ^ (cfg.maxLog2 + 1) := Nat.mod_lt _ (two_pow_pos _)

/-! ## Publications under way -/

/-- The delivered total is at most the latest (R48). -/
theorem publicationsPending_le {seen latest : Nat} {totals : List Nat} (h : publicationsPending seen latest totals) :
    seen ≤ latest := by
  obtain ⟨hp, hl⟩ := h
  cases totals with
  | nil => simp at hl; omega
  | cons a rest =>
    have hmem : latest ∈ a :: rest := List.mem_of_getLast? (by simpa using hl)
    exact Nat.le_of_lt ((List.pairwise_cons.mp hp).1 _ hmem)

/-- Delivering the head (R47). -/
theorem publicationsPending_deliver {seen latest a : Nat} {totals : List Nat}
    (h : publicationsPending seen latest (a :: totals)) : publicationsPending a latest totals ∧ seen < a :=
  ⟨⟨(List.pairwise_cons.mp h.1).2, by simpa using h.2⟩, (List.pairwise_cons.mp h.1).1 a (by simp)⟩

/-- Publishing a larger total (R44, R45). -/
theorem publicationsPending_publish {seen latest new : Nat} {totals : List Nat}
    (h : publicationsPending seen latest totals) (hnew : latest < new) :
    publicationsPending seen new (totals ++ [new]) := by
  obtain ⟨hp, hl⟩ := h
  rw [publicationsPending, ← List.cons_append]
  refine ⟨List.pairwise_append.mpr ⟨hp, by simp, ?_⟩, by rw [List.getLast?_append]; rfl⟩
  intro a ha b hb
  simp only [List.mem_singleton] at hb
  subst hb
  obtain ⟨front, hfront⟩ := List.getLast?_eq_some_iff.mp hl
  rw [hfront] at ha hp
  rcases List.mem_append.mp ha with h | h
  · exact Nat.lt_trans ((List.pairwise_append.mp hp).2.2 a h latest (by simp)) hnew
  · simp only [List.mem_singleton] at h
    omega

/-! ## What each side sees -/

/-- The producer's view of a live instance (R30, R49). -/
theorem countersOk_producer {s : State} (h : s.countersOk) :
    ∃ rs, s.rdSeen = rdOfTotal s.cap rs ∧ rs ≤ s.totalR ∧ rs ≤ s.totalW ∧ s.totalW ≤ rs + s.cap ∧
      s.occProducer = s.totalW - rs := by
  obtain ⟨-, -, hw, -, ws, rs, tw, tr, -, h2, -, -, -, -, h7, h8, h9, h10⟩ := h
  refine ⟨rs, h2, h7, by omega, h10, ?_⟩
  unfold State.occProducer State.sampleRd
  rw [hw, h2]
  exact occupancy_of_totals (cap_pos s) (by omega) h10

/-- The consumer's view of a live instance (R30, R49). -/
theorem countersOk_consumer {s : State} (h : s.countersOk) :
    ∃ ws, s.wrSeen = wrOfTotal s.cap ws ∧ s.totalR ≤ ws ∧ ws ≤ s.totalW ∧ s.totalW ≤ s.totalR + s.cap ∧
      s.occConsumer = ws - s.totalR := by
  obtain ⟨-, -, -, hr, ws, rs, tw, tr, h1, -, -, -, -, -, h7, h8, h9, h10⟩ := h
  refine ⟨ws, h1, h8, h9, by omega, ?_⟩
  unfold State.occConsumer State.sampleWr
  rw [hr, h1]
  exact occupancy_of_totals (cap_pos s) (by omega) (by omega)

/-- A live instance fits the physical store (R24, R27). -/
theorem cap_le_storeSize {s : State} (h : s.countersOk) : s.cap ≤ s.storeSize :=
  Nat.pow_le_pow_right (by decide) h.2.1

/-! ## Response words -/

@[simp] theorem responseWord_status (st : Status) (v : Nat) : (responseWord st v).extractLsb' 28 4 = st.code :=
  opField_commandWord _ _

@[simp] theorem responseWord_reserved (st : Status) (v : Nat) : (responseWord st v).extractLsb' 24 4 = 0#4 :=
  rsvdField_commandWord _ _

@[simp] theorem responseWord_value (st : Status) (v : Nat) :
    (responseWord st v).extractLsb' 0 24 = BitVec.ofNat 24 v := argField_commandWord _ _

/-- The response OK with a value that fits its field is the value itself (R74). -/
theorem responseWord_ok {v : Nat} (h : v < 2 ^ 24) : responseWord .ok v = BitVec.ofNat 32 v := by
  apply BitVec.eq_of_getLsbD_eq
  intro k hk
  rw [show responseWord .ok v = commandWord 0#4 v from rfl, getLsbD_commandWord]
  simp only [BitVec.getLsbD_ofNat]
  have high : ∀ j, 24 ≤ j → v.testBit j = false := fun j hj =>
    Nat.testBit_lt_two_pow (Nat.lt_of_lt_of_le h (Nat.pow_le_pow_right (by decide) hj))
  split_ifs with a b
  · simp [a, hk]
  · simp [high k (by omega)]
  · simp [high k (by omega)]

end Sys2Proof.Machine
end

