-- ==== Sys2Proof/Machine/AssemblerText.lean ====
section
/-! DEFINITION. The text of the assembler (R72, R73): the characters of a line, and a reader of lines, comments, numbers
and expected responses. It is notation; no step uses it (log entry 22). -/

namespace Sys2Proof.Machine

/-! ## Names -/

def nameCreate : List Char := ['c', 'r', 'e', 'a', 't', 'e']
def nameRelease : List Char := ['r', 'e', 'l', 'e', 'a', 's', 'e']
def nameCapq : List Char := ['c', 'a', 'p', 'q']
def nameWrite : List Char := ['w', 'r', 'i', 't', 'e']
def nameRead : List Char := ['r', 'e', 'a', 'd']
def namePut : List Char := ['p', 'u', 't']
def nameWbytes : List Char := ['w', 'b', 'y', 't', 'e', 's']
def nameGet : List Char := ['g', 'e', 't']
def nameDrain : List Char := ['d', 'r', 'a', 'i', 'n']
def nameWprobe : List Char := ['w', 'p', 'r', 'o', 'b', 'e']
def nameRprobe : List Char := ['r', 'p', 'r', 'o', 'b', 'e']
def nameRaw : List Char := ['.', 'w', 'o', 'r', 'd']

/-- The name of a port. -/
def portName : Port → List Char
  | .ctrl => ['c', 't', 'r', 'l']
  | .prod => ['p', 'r', 'o', 'd']
  | .cons => ['c', 'o', 'n', 's']

/-- The name of a status (R67). -/
def statusName : Status → List Char
  | .ok => ['O', 'K']
  | .wouldBlock => ['W', 'O', 'U', 'L', 'D', '_', 'B', 'L', 'O', 'C', 'K']
  | .allocFail => ['A', 'L', 'L', 'O', 'C', '_', 'F', 'A', 'I', 'L']
  | .illegal => ['I', 'L', 'L', 'E', 'G', 'A', 'L']

/-- The word an expected fault begins with. -/
def nameFault : List Char := ['F', 'A', 'U', 'L', 'T']

/-- The kinds of fault with their codes (R121). -/
def faultNames : List (List Char × Nat) :=
  [(['N', 'o', 't', 'L', 'i', 'v', 'e'], 1),
   (['C', 'r', 'e', 'a', 't', 'e', 'W', 'h', 'i', 'l', 'e', 'L', 'i', 'v', 'e'], 2),
   (['R', 'e', 'l', 'e', 'a', 's', 'e', 'W', 'h', 'i', 'l', 'e', 'B', 'u', 's', 'y'], 3),
   (['I', 'n', 'v', 'a', 'r', 'i', 'a', 'n', 't', 'B', 'r', 'o', 'k', 'e', 'n'], 4)]

/-! ## Writing a line -/

/-- A number in decimal. -/
def decimal (n : Nat) : List Char := Nat.toDigits 10 n

/-- A word as `0x` and eight hexadecimal digits, the most significant first. -/
def hexWord (w : Word) : List Char :=
  ['0', 'x'] ++ [28, 24, 20, 16, 12, 8, 4, 0].map fun k => Nat.digitChar ((w.toNat / 2 ^ k) % 16)

/-- A byte list as it is written: `[b0, b1, ...]`. -/
def byteList (bytes : List Byte) : List Char :=
  ['['] ++ List.intercalate [',', ' '] (bytes.map fun b => decimal b.toNat) ++ [']']

/-- What stands after the port name and the colon. -/
def AsmLine.operation : AsmLine → List Char
  | .create req => nameCreate ++ [' '] ++ decimal req
  | .release => nameRelease
  | .capq => nameCapq
  | .write bytes => nameWrite ++ [' '] ++ decimal bytes.length ++ [',', ' '] ++ byteList bytes
  | .read len => nameRead ++ [' '] ++ decimal len
  | .raw _ w => nameRaw ++ [' '] ++ hexWord w
  | .put b => namePut ++ [' '] ++ decimal b.toNat
  | .wbytes bytes => nameWbytes ++ [' '] ++ byteList bytes
  | .get => nameGet
  | .drain => nameDrain
  | .wprobe => nameWprobe
  | .rprobe => nameRprobe

/-- The text of a line: `<port>: <mnemonic> <operands>` (R72). -/
def AsmLine.text (line : AsmLine) : List Char := portName line.transaction.1 ++ [':', ' '] ++ line.operation

/-! ## Reading characters -/

/-- A line is cut into words and single marks. -/
inductive Token where
  | word (cs : List Char)
  | mark (c : Char)
deriving DecidableEq, Repr

/-- The characters that stand for themselves. -/
def isMark (c : Char) : Bool := [':', ',', '[', ']', '=', '>', '(', ')'].elem c

/-- The word read so far, if there is one. -/
def flush (acc : List Char) : List Token := if acc.isEmpty then [] else [.word acc]

/-- Cut a line, a comment already taken off. -/
def tokens : List Char → List Char → List Token
  | [], acc => flush acc
  | c :: cs, acc =>
    if c = ' ' ∨ c = '\t' then flush acc ++ tokens cs []
    else if isMark c then flush acc ++ .mark c :: tokens cs []
    else tokens cs (acc ++ [c])

/-- The value of a digit in a base. -/
def digit (base : Nat) (c : Char) : Option Nat :=
  let n := c.toNat
  let v := if 48 ≤ n ∧ n ≤ 57 then n - 48 else if 97 ≤ n ∧ n ≤ 102 then n - 87 else if 65 ≤ n ∧ n ≤ 70 then n - 55 else 16
  if v < base then some v else none

/-- The number that digits stand for, the most significant first. -/
def digits (base : Nat) : Nat → List Char → Option Nat
  | n, [] => some n
  | n, c :: cs =>
    match digit base c with
    | none => none
    | some v => digits base (n * base + v) cs

/-- A number, decimal or `0x` hexadecimal (R72). -/
def number : List Char → Option Nat
  | [] => none
  | '0' :: 'x' :: c :: cs => digits 16 0 (c :: cs)
  | cs => digits 10 0 cs

/-- A byte. -/
def byte (cs : List Char) : Option Byte :=
  match number cs with
  | some n => if n < 256 then some (BitVec.ofNat 8 n) else none
  | none => none

/-- A raw word: `0x` and exactly eight hexadecimal digits (R72). -/
def rawWord : List Char → Option Word
  | '0' :: 'x' :: cs => if cs.length = 8 then (digits 16 0 cs).map (BitVec.ofNat 32) else none
  | _ => none

/-! ## Reading a line -/

/-- The bytes after `[`, at least one. -/
def byteItems : List Token → Option (List Byte × List Token)
  | .word cs :: .mark ']' :: rest => (byte cs).map fun b => ([b], rest)
  | .word cs :: .mark ',' :: rest =>
    match byte cs, byteItems rest with
    | some b, some (bs, r) => some (b :: bs, r)
    | _, _ => none
  | _ => none

/-- A byte list in brackets. -/
def bracketed : List Token → Option (List Byte × List Token)
  | .mark '[' :: .mark ']' :: rest => some ([], rest)
  | .mark '[' :: rest => byteItems rest
  | _ => none

/-- A 24-bit argument (R62). -/
def argument : List Token → Option (Nat × List Token)
  | .word cs :: rest =>
    match number cs with
    | some n => if n < 2 ^ 24 then some (n, rest) else none
    | none => none
  | _ => none

/-- The operands of a WRITE: the length, a comma and as many bytes (R72). -/
def writeOperands (toks : List Token) : Option (AsmLine × List Token) :=
  match argument toks with
  | some (len, .mark ',' :: rest) =>
    match bracketed rest with
    | some (bytes, r) => if bytes.length = len then some (.write bytes, r) else none
    | none => none
  | _ => none

/-- The rest of a line after its port and its mnemonic: the forms of R72 and R73, each on its own port; a raw word on
any. A `wbytes` list of `2^24` or more bytes has no 24-bit length and is rejected (the model's choice, log entry 22). -/
def operationOf (p : Port) (m : List Char) (toks : List Token) : Option (AsmLine × List Token) :=
  if m = nameRaw then
    match toks with
    | .word cs :: rest => (rawWord cs).map fun w => (.raw p w, rest)
    | _ => none
  else
    match p with
    | .ctrl =>
      if m = nameCreate then (argument toks).map fun x => (.create x.1, x.2)
      else if m = nameRelease then some (.release, toks)
      else if m = nameCapq then some (.capq, toks)
      else none
    | .prod =>
      if m = nameWrite then writeOperands toks
      else if m = nameWbytes then
        match bracketed toks with
        | some (bytes, rest) => if bytes.length < 2 ^ 24 then some (.wbytes bytes, rest) else none
        | none => none
      else if m = nameWprobe then some (.wprobe, toks)
      else if m = namePut then
        match toks with
        | .word cs :: rest => (byte cs).map fun b => (.put b, rest)
        | _ => none
      else none
    | .cons =>
      if m = nameRead then (argument toks).map fun x => (.read x.1, x.2)
      else if m = nameGet then some (.get, toks)
      else if m = nameDrain then some (.drain, toks)
      else if m = nameRprobe then some (.rprobe, toks)
      else none

/-- What a line may say it expects (R72). A response written without a number is of any value, and one written without a
byte list is one without data (the model's choice, log entry 22). -/
inductive Expected where
  | response (st : Status) (value : Option Nat) (data : List Byte)
  | fault (code : Nat)
deriving DecidableEq, Repr

/-- The data that may end an expected response. R72 does not say what a response without a byte list means for a READ
that delivers bytes. Here it means no data, as an empty list does (DESIGN CHOICE, safe, log entry 22): `=> OK 2` is met by
a WRITE that accepts two bytes and never by a READ that delivers two, whose line names them, `=> OK 2 [0, 1]`. -/
def expectedData (st : Status) (value : Option Nat) (toks : List Token) : Option Expected :=
  match toks with
  | [] => some (.response st value [])
  | _ =>
    match bracketed toks with
    | some (bytes, []) => some (.response st value bytes)
    | _ => none

/-- What stands after `=>`. -/
def expectedOf : List Token → Option Expected
  | [.word f, .mark '(', .word kind, .mark ')'] => if f = nameFault then (faultNames.lookup kind).map .fault else none
  | .word name :: rest =>
    match [Status.ok, .wouldBlock, .allocFail, .illegal].find? (fun st => statusName st == name) with
    | none => none
    | some st =>
      match rest with
      | .word cs :: r =>
        match number cs with
        | some n => expectedData st (some n) r
        | none => none
      | _ => expectedData st none rest
  | _ => none

/-- Read one line (R72): its comment goes, and what is left must be a command, with or without an expected response.
R72 has comments start with `;` and lets a response follow `=>`, and does not say whether a `=>` behind the `;` is one;
the listings of 95_test_vectors.md, part 3, print it there, in the last of their columns. Here it is part of the comment
and dropped (DESIGN CHOICE, safe, log entry 22): such a line expects nothing. The line number in a listing's first
column is no part of a line, and a line with it is rejected. -/
def parseLine (text : List Char) : Option (AsmLine × Option Expected) :=
  match tokens (text.takeWhile (fun c => c != ';')) [] with
  | .word pt :: .mark ':' :: .word m :: rest =>
    match [Port.ctrl, .prod, .cons].find? (fun p => portName p == pt) with
    | none => none
    | some p =>
      match operationOf p m rest with
      | some (line, []) => some (line, none)
      | some (line, .mark '=' :: .mark '>' :: r) => (expectedOf r).map fun e => (line, some e)
      | _ => none
  | _ => none

/-- Whether what a step answered on a port is what a line expects. A fault is recognised by its code (R121). -/
def Expected.met (e : Expected) (p : Port) (o : Result) : Bool :=
  match e, o with
  | .response st value data, .next t =>
    match (t.port p).responses.getLast? with
    | none => false
    | some r =>
      decide (r.word.extractLsb' 28 4 = st.code) && decide (r.data = data) &&
        (match value with
         | none => true
         | some n => decide ((r.word.extractLsb' 0 24).toNat = n))
  | .fault code, .fault f => decide (f.code = some code)
  | _, _ => false

end Sys2Proof.Machine
end

