-- ==== Sys2Proof/Tests/Slice0.lean ====
section
/-! SUPPORT. Tests of the model against words and vectors written out from the spec (95_test_vectors.md, R74), the smoke
tests of WellFormed, and a witness for the hypotheses of each statement. -/

namespace Sys2Proof.Tests

open Sys2Proof.Machine

/-! ## WellFormed: each check refuses an ill-formed term (R62) -/

theorem test_create_argument_too_wide : (Instr.create (2 ^ 24)).wellFormed = false := by decide
theorem test_write_argument_too_wide : (Instr.write (2 ^ 24)).wellFormed = false := by decide
theorem test_read_argument_too_wide : (Instr.read (2 ^ 24)).wellFormed = false := by decide
theorem test_widest_argument_fits : (Instr.read (2 ^ 24 - 1)).wellFormed = true := by decide

/-! ## Decode: words written out from R61 and R63, `op` then `rsvd` then `arg`, bit by bit -/

theorem test_decode_create : decode .ctrl 0b0001_0000_000000000000000000000111#32 = .ok (.create 7) := by rfl
theorem test_decode_release : decode .ctrl 0b0010_0000_000000000000000000000000#32 = .ok .release := by rfl
theorem test_decode_capq : decode .ctrl 0b0011_0000_000000000000000000000000#32 = .ok .capq := by rfl
theorem test_decode_write : decode .prod 0b0100_0000_000000000000000000000100#32 = .ok (.write 4) := by rfl
theorem test_decode_read : decode .cons 0b0101_0000_111111111111111111111111#32 = .ok (.read 16777215) := by rfl
/-- L2.1: `0x11000008` has `rsvd = 1`. -/
theorem test_decode_reserved_field : decode .ctrl 0x11000008#32 = .error .reservedField := by rfl
/-- L2.1: the all-zero word. -/
theorem test_decode_zero_word : decode .ctrl 0x00000000#32 = .error .reservedOpcode := by rfl
/-- L2.1: CAPQ with `arg != 0`. -/
theorem test_decode_capq_argument : decode .ctrl 0x30800000#32 = .error .nonzeroArgument := by rfl
/-- L2.1: READ on PROD. -/
theorem test_decode_wrong_port : decode .prod 0x50000001#32 = .error .wrongPort := by rfl
/-- R41: `create 8` as bytes, least significant first. -/
theorem test_decode_bytes : decodeBytes .ctrl [0x08#8, 0x00#8, 0x00#8, 0x10#8, 0xFF#8] = .ok (.create 8, [0xFF#8]) := by rfl
theorem test_table_words :
    decodeTableWord 32 0x10000000 = some (.create 0) ∧ decodeTableWord 32 0x20000000 = some .release ∧
    decodeTableWord 32 0x30000000 = some .capq ∧ decodeTableWord 32 0x40000000 = some (.write 0) ∧
    decodeTableWord 32 0x50000000 = some (.read 0) ∧ decodeTableWord 32 0x60000000 = none := by decide

/-! ## One step on a small state -/

/-- The build of the vectors of 95_test_vectors.md, L2.4 and L2.5. -/
def small (crossing : Crossing) : Config := { maxLog2 := 3, crossing := crossing, platformMap := [] }

/-- A live instance of capacity 8 with both snapshots exact, STORAGE offset `i` holding `0xE0 + i`, and one command
outstanding on PROD or CONS. -/
def live8 (wr rd : Nat) (prod cons : PortState) : State :=
  { State.resetWith (small .sync) with
    live := true, capLog2 := 3#5, wrPtr := wr, wrSeen := wr, rdPtr := rd, rdSeen := rd,
    storage := [(0, 0xE0#8), (1, 0xE1#8), (2, 0xE2#8), (3, 0xE3#8), (4, 0xE4#8), (5, 0xE5#8), (6, 0xE6#8), (7, 0xE7#8)],
    prod := { PortUnit.empty with state := prod }, cons := { PortUnit.empty with state := cons } }

/-- A WRITE of the payload bytes. -/
def offer (bytes : List Byte) : PortState := .busy { word := encode (.write bytes.length), payload := bytes }

/-- A READ of at most `len` bytes. -/
def want (len : Nat) : PortState := .busy { word := encode (.read len), payload := [] }

/-- One fact about the next state. -/
def nextSatisfies (r : Result) (p : State → Bool) : Bool :=
  match r with
  | .next t => p t
  | _ => false

/-- L2.2: `create 3` gives `K = 2`, `WR = 8`, `RD = 0`, and answers OK 4. -/
theorem test_create_rounds : nextSatisfies (exec (.create 3) (State.resetWith (small .sync)))
    (fun t => t.wrPtr == 8 && t.rdPtr == 0 && t.capLog2 == 2#5 && t.ctrl.responses == [⟨0x00000004#32, []⟩]) = true := by
  decide
/-- L2.2: `M = 3`, `create 9` answers ALLOC_FAIL. -/
theorem test_create_alloc_fail : nextSatisfies (exec (.create 9) (State.resetWith (small .sync)))
    (fun t => !t.live && t.ctrl.responses == [⟨0x20000000#32, []⟩]) = true := by decide
/-- R33, R37: every port is IDLE after CREATE, and what was outstanding on CONS is again the next of its stream. -/
theorem test_create_idles_ports : nextSatisfies (exec (.create 3) { State.resetWith (small .sync) with
      cons := { PortUnit.empty with state := want 1 } })
    (fun t => t.live && t.cons.state == .idle && t.cons.responses == [] &&
      t.cons.stream == [{ word := 0x50000001#32, payload := [] }] && t.prod.state == .idle) = true := by decide
/-- L2.3: live, `K = 3`. -/
theorem test_capq : nextSatisfies (exec .capq (live8 24 0 .idle .idle))
    (fun t => t.ctrl.responses == [⟨0x00000008#32, []⟩]) = true := by decide
/-- L2.6: live, ports IDLE. -/
theorem test_release : nextSatisfies (exec .release (live8 19 0 .idle .idle))
    (fun t => !t.live && t.ctrl.responses == [⟨0x00000000#32, []⟩]) = true := by decide
/-- L2.6: RELEASE while PROD is BUSY. -/
theorem test_release_while_busy : exec .release (live8 19 0 (offer [1#8]) .idle) =
    .fault (.releaseWhileBusy .ctrl 0x20000000#32) := by rfl
/-- L2.4, W6: split copy and fold to `2c + 6`. -/
theorem test_write_split_and_fold :
    nextSatisfies (exec (.write 7) (live8 31 14 (offer [0x10#8, 0x11#8, 0x12#8, 0x13#8, 0x14#8, 0x15#8, 0x16#8]) .idle))
      (fun t => t.wrPtr == 22 && t.wrSeen == 22 && t.storage == [(0, 0x11#8), (1, 0x12#8), (2, 0x13#8), (3, 0x14#8),
        (4, 0x15#8), (5, 0x16#8), (6, 0xE6#8), (7, 0x10#8)] && t.prod.responses == [⟨0x00000007#32, []⟩]) = true := by decide
/-- L2.4, W4: partial, exact end and `wp + n = 4c`, which folds to `2c`. -/
theorem test_write_partial_and_fold :
    nextSatisfies (exec (.write 4) (live8 30 8 (offer [0x10#8, 0x11#8, 0x12#8, 0x13#8]) .idle))
      (fun t => t.wrPtr == 16 && t.storage.drop 6 == [(6, 0x10#8), (7, 0x11#8)] &&
        t.prod.responses == [⟨0x00000002#32, []⟩]) = true := by decide
/-- L2.5, R6: split copy and fold. -/
theorem test_read_split_and_fold : nextSatisfies (exec (.read 6) (live8 20 14 .idle (want 6)))
    (fun t => t.rdPtr == 4 && t.wrPtr == 20 &&
      t.cons.responses == [⟨0x00000006#32, [0xE6#8, 0xE7#8, 0xE0#8, 0xE1#8, 0xE2#8, 0xE3#8]⟩]) = true := by decide
/-- L2.5, R5: exact end and `rp + n = 2c`, which folds to 0. -/
theorem test_read_fold_to_zero : nextSatisfies (exec (.read 4) (live8 20 12 .idle (want 4)))
    (fun t => t.rdPtr == 0 && t.cons.responses == [⟨0x00000004#32, [0xE4#8, 0xE5#8, 0xE6#8, 0xE7#8]⟩]) = true := by decide
/-- L2.7: a stale snapshot leaves 1 of 3 free bytes in view (`c = 4`, `WR = 11`, `RD = 2`, `RS = 0`). -/
theorem test_write_stale_view :
    nextSatisfies (exec (.write 2) { live8 11 2 (offer [4#8, 5#8]) .idle with
        cfg := small .async, capLog2 := 2#5, rdSeen := 0, wrSeen := 8, qW := [11], qR := [2] })
      (fun t => t.wrPtr == 12 && t.qW == [11, 12] && t.wrSeen == 8 && t.prod.responses == [⟨0x00000001#32, []⟩]) = true := by
  decide
/-- R72: the text of a line. -/
theorem test_assembler_text : (AsmLine.write [0#8, 10#8]).text =
    ['p', 'r', 'o', 'd', ':', ' ', 'w', 'r', 'i', 't', 'e', ' ', '2', ',', ' ', '[', '0', ',', ' ', '1', '0', ']'] := by
  decide

/-- R72: a hexadecimal number, a comment and a count that must equal the bytes listed. -/
theorem test_parse_write :
    parseLine ['p', 'r', 'o', 'd', ':', ' ', 'w', 'r', 'i', 't', 'e', ' ', '0', 'x', '2', ',', ' ', '[', '7', ',', ' ', '0', 'x', 'F', 'F', ']', ' ', ';', ' ', 'n', 'o', 't', 'e'] =
      some (.write [7#8, 0xFF#8], none) := by decide
/-- R72: a count that differs from the bytes listed. -/
theorem test_parse_wrong_count : parseLine ['p', 'r', 'o', 'd', ':', ' ', 'w', 'r', 'i', 't', 'e', ' ', '2', ',', ' ', '[', '7', ']'] = none := by
  decide
/-- R72, L2.6 and P4: lines with an expected response or fault. -/
theorem test_parse_expected :
    parseLine ['c', 'o', 'n', 's', ':', ' ', 'r', 'e', 'a', 'd', ' ', '2', ' ', '=', '>', ' ', 'O', 'K', ' ', '2', ' ', '[', '0', ',', ' ', '1', ']'] =
      some (.read 2, some (.response .ok (some 2) [0#8, 1#8])) ∧
    parseLine ['p', 'r', 'o', 'd', ':', ' ', 'w', 'r', 'i', 't', 'e', ' ', '1', ',', ' ', '[', '5', ']', ' ', '=', '>', ' ', 'F', 'A', 'U', 'L', 'T', '(', 'N', 'o', 't', 'L', 'i', 'v', 'e', ')'] =
      some (.write [5#8], some (.fault 1)) ∧
    parseLine ['p', 'r', 'o', 'd', ':', ' ', '.', 'w', 'o', 'r', 'd', ' ', '0', 'x', '5', '0', '0', '0', '0', '0', '0', '1', ' ', '=', '>', ' ', 'I', 'L', 'L', 'E', 'G', 'A', 'L', ' ', '0'] =
      some (.raw .prod 0x50000001#32, some (.response .illegal (some 0) [])) := by decide

/-- R150: a state as P1 leaves its ports and queues is final, also with steps to come that find nothing to do. -/
theorem test_final : State.final { live8 20 4 .idle .idle with agenda := [.agent .prod, .execute .prod] } :=
  ⟨⟨⟨rfl, rfl, rfl⟩, by decide⟩, ⟨rfl, rfl, rfl⟩, .inl ⟨rfl, rfl⟩, rfl, rfl⟩
/-- R150: a command still to come prevents it. -/
theorem test_not_final : ¬ State.final { live8 20 4 .idle .idle with
    agenda := [.extend .prod ⟨0x40000001#32, [5#8]⟩, .agent .prod, .execute .prod] } :=
  fun h => absurd (h.1.2 _ List.mem_cons_self) (by decide)

/-! ## Witnesses: concrete states and operands that meet the hypotheses of each statement -/

/-- P3 after line 10, ASYNC, `c = 4`: `WR = 14`, `RD = 2`, `WS = 11`, `RS = 2`, three values under way, two bytes
delivered of six accepted. -/
def midway (prod cons : PortState) (agenda : List Event) : State :=
  { State.resetWith (small .async) with
    live := true, capLog2 := 2#5, wrPtr := 14, rdPtr := 2, wrSeen := 11, rdSeen := 2, qW := [12, 13, 14], qR := [],
    storage := [(0, 5#8), (1, 6#8), (2, 3#8), (3, 4#8)], agenda := agenda, freeStamp := 1,
    accepted := [1#8, 2#8, 3#8, 4#8, 5#8, 6#8], delivered := [1#8, 2#8],
    prod := { PortUnit.empty with state := prod }, cons := { PortUnit.empty with state := cons } }

/-- The four unread bytes stand at offsets 2, 3, 0, 1. -/
theorem midway_unread (j : Nat) (h1 : 2 ≤ j) (h2 : j < 6) :
    Memory.read? [(0, 5#8), (1, 6#8), (2, 3#8), (3, 4#8)] (j % 4) = [1#8, 2#8, 3#8, 4#8, 5#8, 6#8][j]? := by
  have h : j = 2 ∨ j = 3 ∨ j = 4 ∨ j = 5 := by omega
  rcases h with rfl | rfl | rfl | rfl <;> decide

theorem midway_inv (prod cons : PortState) (agenda : List Event)
    (hprod : ∀ t, prod = .busy t → t.wellFormed .prod = true) (hcons : ∀ t, cons = .busy t → t.wellFormed .cons = true) :
    (midway prod cons agenda).Inv where
  cfgOk := (by decide : (small .async).wf)
  widths := (by decide : 14 < 2 ^ 5 ∧ 11 < 2 ^ 5 ∧ 2 < 2 ^ 4 ∧ 2 < 2 ^ 4 ∧ (∀ v ∈ [12, 13, 14], v < 2 ^ 5) ∧
    ∀ v ∈ ([] : List Nat), v < 2 ^ 4)
  memory := (by decide : Memory.wf [(0, 5#8), (1, 6#8), (2, 3#8), (3, 4#8)])
  ports := fun p t h => match p with
    | .ctrl => nomatch h
    | .prod => hprod t h
    | .cons => hcons t h
  syncQueues := fun h => nomatch h
  notLive := fun h => nomatch h
  stream := rfl
  counters := fun _ => ⟨(by decide : 1 ≤ 2), (by decide : 2 ≤ 3), rfl, rfl, 3, 2, [4, 5, 6], [], rfl, rfl, rfl, rfl,
    ⟨(by decide : List.Pairwise (· < ·) [3, 4, 5, 6]), rfl⟩, ⟨(by decide : List.Pairwise (· < ·) [2]), rfl⟩,
    (by decide : 2 ≤ 2), (by decide : 2 ≤ 3), (by decide : 3 ≤ 6), (by decide : 6 ≤ 2 + 4)⟩
  bytes := fun _ => ⟨fun j h1 h2 => midway_unread j h1 h2,
    (by decide : ∀ cell ∈ ([(0, 5#8), (1, 6#8), (2, 3#8), (3, 4#8)] : Memory), cell.1 < 4)⟩

/-- A READ of 6 outstanding on CONS, well formed. -/
theorem want_wellFormed : ∀ t, want 6 = .busy t → t.wellFormed .cons = true := by
  rintro t h
  cases h
  decide

/-- A WRITE of one byte outstanding on PROD, well formed. -/
theorem offer_wellFormed : ∀ t, offer [7#8] = .busy t → t.wellFormed .prod = true := by
  rintro t h
  cases h
  decide

theorem idle_wellFormed (p : Port) : ∀ t, PortState.idle = .busy t → t.wellFormed p = true := nofun

theorem midway_idle_inv (agenda : List Event) : (midway .idle .idle agenda).Inv :=
  midway_inv _ _ _ (idle_wellFormed _) (idle_wellFormed _)

theorem midway_busy_inv (agenda : List Event) : (midway (offer [7#8]) (want 6) agenda).Inv :=
  midway_inv _ _ _ offer_wellFormed want_wellFormed

/-- P1 after line 3, SYNC, `c = 8`: `WR = 20`, `RD = 2`, two bytes delivered of four accepted. -/
def exact8 (prod cons : PortState) : State :=
  { State.resetWith (small .sync) with
    live := true, capLog2 := 3#5, wrPtr := 20, rdPtr := 2, wrSeen := 20, rdSeen := 2,
    storage := [(0, 0#8), (1, 1#8), (2, 2#8), (3, 3#8)], freeStamp := 1,
    accepted := [0#8, 1#8, 2#8, 3#8], delivered := [0#8, 1#8],
    prod := { PortUnit.empty with state := prod }, cons := { PortUnit.empty with state := cons } }

theorem exact8_unread (j : Nat) (h1 : 2 ≤ j) (h2 : j < 4) :
    Memory.read? [(0, 0#8), (1, 1#8), (2, 2#8), (3, 3#8)] (j % 8) = [0#8, 1#8, 2#8, 3#8][j]? := by
  have h : j = 2 ∨ j = 3 := by omega
  rcases h with rfl | rfl <;> decide

theorem exact8_inv (prod cons : PortState) (hprod : ∀ t, prod = .busy t → t.wellFormed .prod = true)
    (hcons : ∀ t, cons = .busy t → t.wellFormed .cons = true) : (exact8 prod cons).Inv where
  cfgOk := (by decide : (small .sync).wf)
  widths := ⟨(by decide : 20 < 2 ^ 5), (by decide : 20 < 2 ^ 5), (by decide : 2 < 2 ^ 4), (by decide : 2 < 2 ^ 4), nofun, nofun⟩
  memory := (by decide : Memory.wf [(0, 0#8), (1, 1#8), (2, 2#8), (3, 3#8)])
  ports := fun p t h => match p with
    | .ctrl => nomatch h
    | .prod => hprod t h
    | .cons => hcons t h
  syncQueues := fun _ => ⟨rfl, rfl⟩
  notLive := fun h => nomatch h
  stream := rfl
  counters := fun _ => ⟨(by decide : 1 ≤ 3), (by decide : 3 ≤ 3), rfl, rfl, 4, 2, [], [], rfl, rfl, rfl, rfl,
    ⟨List.pairwise_singleton _ _, rfl⟩, ⟨List.pairwise_singleton _ _, rfl⟩, (by decide : 2 ≤ 2), (by decide : 2 ≤ 4),
    (by decide : 4 ≤ 4), (by decide : 4 ≤ 2 + 8)⟩
  bytes := fun _ => ⟨fun j h1 h2 => exact8_unread j h1 h2,
    (by decide : ∀ cell ∈ ([(0, 0#8), (1, 1#8), (2, 2#8), (3, 3#8)] : Memory), cell.1 < 8)⟩

theorem exact8_idle_inv : (exact8 .idle .idle).Inv := exact8_inv _ _ (idle_wellFormed _) (idle_wellFormed _)

/-- P1, line 4: the six bytes it offers, well formed. -/
theorem offerSix_wellFormed : ∀ t, offer [4#8, 5#8, 6#8, 7#8, 8#8, 9#8] = .busy t → t.wellFormed .prod = true := by
  rintro t h
  cases h
  decide

/-- The reset state of the small build with one word outstanding on CTRL and one event to come. -/
def atReset (w : Word) (agenda : List Event) : State :=
  { State.resetWith (small .async) with
    ctrl := { PortUnit.empty with state := .busy { word := w, payload := [] } }, agenda := agenda }

theorem reset_inv (cfg : Config) (h : cfg.wf) : (State.resetWith cfg).Inv where
  cfgOk := h
  widths := ⟨Nat.pow_pos (by decide), Nat.pow_pos (by decide), Nat.pow_pos (by decide), Nat.pow_pos (by decide), nofun, nofun⟩
  memory := List.Pairwise.nil
  ports := fun p t h => by cases p <;> cases h
  syncQueues := fun _ => ⟨rfl, rfl⟩
  notLive := fun _ => ⟨rfl, rfl, rfl⟩
  stream := rfl
  counters := fun h => nomatch h
  bytes := fun h => nomatch h

theorem witness_EncodedCommandDecodesOnItsPortOnly :
    (Instr.write (2 ^ 24 - 1)).wellFormed = true ∧ (Instr.create 0).wellFormed = true ∧ Instr.capq.wellFormed = true ∧
    Port.ctrl ≠ (Instr.write 0).port := by decide
theorem witness_DecodedWordIsTheEncodingOfItsCommand :
    decode .cons 0x50FFFFFF#32 = .ok (.read 0xFFFFFF) ∧ decode .prod 0x40000000#32 = .ok (.write 0) := ⟨rfl, rfl⟩
theorem witness_IllegalWordIsAnsweredAndChangesNothing :
    (atReset 0x20000001#32 [.execute .ctrl]).unmarked ∧
    (atReset 0x20000001#32 [.execute .ctrl]).agenda = [.execute .ctrl] ∧
    ((atReset 0x20000001#32 [.execute .ctrl]).port .ctrl).state = .busy { word := 0x20000001#32, payload := [] } ∧
    opField 0x20000001#32 = 0x2#4 ∧ argField 0x20000001#32 ≠ 0#24 ∧ (opField 0x60000000#32).toNat = 6 ∧
    (opField 0xFFFFFFFF#32).toNat = 15 ∧ opField 0x00000000#32 = 0#4 ∧ rsvdField 0x11000008#32 ≠ 0#4 := by decide
theorem witness_WrongPortIsAnsweredIllegal :
    (atReset 0x40000001#32 [.execute .ctrl]).unmarked ∧
    ((atReset 0x40000001#32 [.execute .ctrl]).port .ctrl).state = .busy { word := 0x40000001#32, payload := [] } ∧
    decodeWord 0x40000001#32 = .ok (.write 1) ∧ (Instr.write 1).port ≠ .ctrl := ⟨by decide, by decide, rfl, by decide⟩
theorem witness_PseudoInstructionsExpand : (midway .idle .idle []).Inv ∧ (midway .idle .idle []).live = true :=
  ⟨midway_idle_inv _, rfl⟩
theorem witness_StepRunsTheOutstandingCommand :
    (atReset 0x10000008#32 [.execute .ctrl]).unmarked ∧
    (atReset 0x10000008#32 [.execute .ctrl]).agenda = [.execute .ctrl] ∧
    ((atReset 0x10000008#32 [.execute .ctrl]).port .ctrl).state = .busy { word := 0x10000008#32, payload := [] } ∧
    decode .ctrl 0x10000008#32 = .ok (.create 8) := ⟨by decide, by decide, by decide, rfl⟩
theorem witness_PlacedWordRunsNext :
    State.reset.unmarked ∧ 0x40000002 < 2 ^ 32 ∧ decodeTableWord 32 0x40000002 = some (.write 2) := by decide

/-- A state whose producer has one transaction to issue. -/
def issuing (tr : Transaction) (state : PortState) : State :=
  { State.resetWith (small .async) with
    prod := { state := state, stream := [tr], responses := [] }, agenda := [.agent .prod] }

theorem witness_IssueMovesPortToBusy :
    (issuing ⟨0x40000001#32, [7#8]⟩ .idle).unmarked ∧ (issuing ⟨0x40000001#32, [7#8]⟩ .idle).agenda = [.agent .prod] ∧
    ((issuing ⟨0x40000001#32, [7#8]⟩ .idle).port .prod).state = .idle ∧
    ((issuing ⟨0x40000001#32, [7#8]⟩ .idle).port .prod).stream = [⟨0x40000001#32, [7#8]⟩] ∧
    Transaction.wellFormed .prod ⟨0x40000001#32, [7#8]⟩ = true ∧ Transaction.wellFormed .prod ⟨0x40000001#32, []⟩ = false ∧
    ((issuing ⟨0x40000001#32, [7#8]⟩ (offer [1#8])).port .prod).state ≠ .idle ∧
    ((midway .idle .idle [.agent .prod]).port .prod).stream = [] := by decide
/-- Each clause of the payload rule at its boundary: exactly `len` bytes, and no byte beside any other word. -/
theorem witness_PayloadRuleSaysWhatIsWellFormed :
    Transaction.wellFormed .prod ⟨encode (.write 2), [1#8, 2#8]⟩ = true ∧ Transaction.wellFormed .prod ⟨encode (.write 2), [1#8]⟩ = false ∧
    Transaction.wellFormed .prod ⟨encode (.write 0), []⟩ = true ∧ Transaction.wellFormed .cons ⟨encode (.write 2), []⟩ = true ∧
    Transaction.wellFormed .cons ⟨encode (.read 2), [1#8]⟩ = false := by decide
theorem witness_EveryCommandGetsOneResponseOnItsPort :
    ∃ t, (live8 20 14 .idle (want 6)).cons.state = want 6 ∧
      step { live8 20 14 .idle (want 6) with agenda := [.execute .cons] } = .next t := ⟨_, rfl, rfl⟩
theorem witness_ResponseDataMatchesItsValue :
    ∃ t, (midway (offer [7#8]) (want 6) [.execute .cons]).Inv ∧
      ((midway (offer [7#8]) (want 6) [.execute .cons]).port .cons).state = want 6 ∧
      step (midway (offer [7#8]) (want 6) [.execute .cons]) = .next t := ⟨_, midway_busy_inv _, rfl, rfl⟩
theorem witness_CreateConstructsTheInstance :
    (small .async).wf ∧ (State.resetWith (small .async)).live = false ∧ capRound 8 ≤ 2 ^ (small .async).maxLog2 ∧
    capRound 0 ≤ 2 ^ (small .async).maxLog2 := by decide
/-- The two cases of the other ports: a CREATE with a READ outstanding on CONS, and a WRITE beside it. -/
theorem witness_EveryCommandGetsOneResponseOnItsPort_of_create :
    (∃ t, step { atReset 0x10000008#32 [.execute .ctrl] with cons := { PortUnit.empty with state := want 1 } } = .next t ∧
      t.live = true ∧ t.cons.state = .idle) ∧
    ∃ t, step { live8 20 14 (offer [7#8]) (want 6) with agenda := [.execute .prod] } = .next t ∧ t.cons.state = want 6 :=
  ⟨⟨_, rfl, rfl, rfl⟩, _, rfl, rfl⟩
/-- A WRITE outstanding on PROD at the CREATE, well formed. -/
theorem witness_CreateConstructsTheInstance_of_busy :
    ({ State.resetWith (small .async) with prod := { PortUnit.empty with state := offer [7#8] } } : State).live = false ∧
    (State.port { State.resetWith (small .async) with prod := { PortUnit.empty with state := offer [7#8] } } .prod).state =
      .busy { word := encode (.write 1), payload := [7#8] } ∧
    Transaction.wellFormed .prod { word := encode (.write 1), payload := [7#8] } = true := by decide
/-- Both clauses at the boundary of a store of 8 bytes: 8 fits, 9 does not. -/
theorem witness_CreateFailsExactlyWhenTooLarge :
    (State.resetWith (small .async)).live = false ∧ 2 ^ (small .async).maxLog2 < capRound 9 ∧
    capRound 8 ≤ 2 ^ (small .async).maxLog2 := by decide
theorem witness_CreateWhileLiveFaults : (midway .idle .idle []).live = true := rfl
theorem witness_NewInstanceIsEmptyAndWritePointerStaysAhead :
    (∃ t, (small .async).wf ∧ exec (.create 8) (State.resetWith (small .async)) = .next t ∧ t.live = true) ∧
    (midway .idle .idle []).Inv ∧ (midway .idle .idle []).live = true :=
  ⟨⟨_, by decide, rfl, rfl⟩, midway_idle_inv _, rfl⟩
theorem witness_CapqAnswersTheCapacity :
    (midway .idle .idle []).live = true ∧ (midway .idle .idle []).capLog2.toNat ≤ 23 ∧ State.reset.live = false :=
  ⟨rfl, by decide, rfl⟩
theorem witness_ReleaseEndsTheInstance :
    (midway .idle .idle []).live = true ∧ (midway .idle .idle []).prod.state = .idle ∧
    (midway .idle .idle []).cons.state = .idle := ⟨rfl, rfl, rfl⟩
theorem witness_ReleaseFaultsWhenMisused :
    State.reset.live = false ∧ (midway (offer [7#8]) .idle []).live = true ∧
    (midway (offer [7#8]) .idle []).prod.state ≠ .idle ∧ (midway .idle (want 6) []).cons.state ≠ .idle := by decide
/-- `wp + n = 4c` exactly, and a split copy that folds (L2.4, W4 and W6). -/
theorem witness_WriteStoresAndPublishes :
    (small .sync).wf ∧ (live8 30 8 (offer [1#8, 2#8, 3#8, 4#8]) .idle).live = true ∧
    (live8 30 8 (offer [1#8, 2#8, 3#8, 4#8]) .idle).rangesOk ∧ modSub 30 8 16 < 8 ∧
    (live8 31 14 (offer [1#8, 2#8, 3#8, 4#8]) .idle).rangesOk ∧ modSub 31 14 16 < 8 := by decide
theorem witness_ZeroLengthWriteIsANoOp :
    (live8 24 0 (offer []) .idle).live = true ∧ (live8 24 0 (offer []) .idle).prod.state = .busy ⟨encode (.write 0), []⟩ := by
  decide
theorem witness_FullWriteWouldBlock :
    (live8 24 0 (offer [1#8]) .idle).live = true ∧
    (live8 24 0 (offer [1#8]) .idle).prod.state = .busy ⟨encode (.write 1), [1#8]⟩ ∧
    modSub (live8 24 0 (offer [1#8]) .idle).wrPtr (live8 24 0 (offer [1#8]) .idle).rdSeen
      (2 * (live8 24 0 (offer [1#8]) .idle).cap) = (live8 24 0 (offer [1#8]) .idle).cap := by decide
/-- Each clause at its boundary, `c = 8`: `wp + n = 4c - 1` and `wp + n = 4c`. -/
theorem witness_WriteCounterFolds :
    (2 * 8 ≤ 30 ∧ 30 < 4 * 8 ∧ 1 ≤ 1 ∧ 1 ≤ 8 ∧ 30 + 1 < 4 * 8 ∧ foldWr 8 30 1 = 31) ∧
    (4 * 8 ≤ 30 + 2 ∧ foldWr 8 30 2 = 16) ∧ (4 * 8 ≤ 31 + 7 ∧ foldWr 8 31 7 = 22) := by decide
/-- P1, line 4: a WRITE of six bytes that wraps and reaches neither fold. -/
theorem witness_WriteCounterFolds_of_exec :
    ∃ t, (exact8 (offer [4#8, 5#8, 6#8, 7#8, 8#8, 9#8]) .idle).Inv ∧
      exec (.write 6) (exact8 (offer [4#8, 5#8, 6#8, 7#8, 8#8, 9#8]) .idle) = .next t ∧
      1 ≤ (exact8 (offer [4#8, 5#8, 6#8, 7#8, 8#8, 9#8]) .idle).writeCount 6 :=
  ⟨_, exact8_inv _ _ offerSix_wellFormed (idle_wellFormed _), rfl, by decide⟩
theorem witness_WriteWithWrongPayloadIsRefused : (live8 24 0 (offer [1#8, 2#8]) .idle).prod.payload.length ≠ 3 := by decide
theorem witness_WriteAppendsToTheAcceptedStream :
    ∃ t, (midway (offer [7#8]) .idle []).Inv ∧ exec (.write 1) (midway (offer [7#8]) .idle []) = .next t :=
  ⟨_, midway_inv _ _ _ offer_wellFormed (idle_wellFormed _), rfl⟩
/-- `rp + n = 2c` exactly, and a split copy that folds (L2.5, R5 and R6). -/
theorem witness_ReadDeliversAndPublishes :
    (small .sync).wf ∧ (live8 20 12 .idle (want 4)).live = true ∧ (live8 20 12 .idle (want 4)).rangesOk ∧
    1 ≤ modSub 20 12 16 ∧ modSub 20 12 16 ≤ 8 ∧ (live8 20 14 .idle (want 6)).rangesOk ∧ 1 ≤ modSub 20 14 16 ∧
    modSub 20 14 16 ≤ 8 ∧ (live8 20 12 .idle (want 4)).storage.read? ((12 % 8 + 3) % 8) = some 0xE7#8 := by decide
theorem witness_ZeroLengthReadIsANoOp : (live8 16 0 .idle (want 0)).live = true := rfl
theorem witness_EmptyReadWouldBlock :
    (live8 28 12 .idle (want 4)).live = true ∧ modSub (live8 28 12 .idle (want 4)).wrSeen (live8 28 12 .idle (want 4)).rdPtr
      (2 * (live8 28 12 .idle (want 4)).cap) = 0 := by decide
/-- Each clause at its boundary, `c = 8`: `rp + n = 2c - 1` and `rp + n = 2c`. -/
theorem witness_ReadCounterFolds :
    (14 < 2 * 8 ∧ 14 + 1 < 2 * 8 ∧ foldRd 8 14 1 = 15) ∧ (2 * 8 ≤ 15 + 1 ∧ foldRd 8 15 1 = 0) ∧
    (2 * 8 ≤ 14 + 6 ∧ foldRd 8 14 6 = 4) := by decide
theorem witness_ReadCounterFolds_of_exec :
    ∃ t, (midway .idle (want 6) []).Inv ∧ exec (.read 6) (midway .idle (want 6) []) = .next t ∧
      1 ≤ (midway .idle (want 6) []).readCount 6 :=
  ⟨_, midway_inv _ _ _ (idle_wellFormed _) want_wellFormed, rfl, by decide⟩
theorem witness_ReadDeliversTheNextAcceptedBytes :
    ∃ t, (midway .idle (want 6) []).Inv ∧ exec (.read 6) (midway .idle (want 6) []) = .next t :=
  ⟨_, midway_inv _ _ _ (idle_wellFormed _) want_wellFormed, rfl⟩
theorem witness_CommandsFaultWithoutAnInstance : State.reset.live = false ∧ State.reset.prod.payload.length = 0 := ⟨rfl, rfl⟩
/-- L2.4 and L2.5, the injected states with `occ = 11 > 8`. -/
theorem witness_BrokenOccupancyFaults :
    (live8 25 14 (offer [1#8]) (want 1)).live = true ∧ (live8 25 14 (offer [1#8]) (want 1)).prod.payload.length = 1 ∧
    (live8 25 14 (offer [1#8]) (want 1)).cap < modSub 25 14 (2 * (live8 25 14 (offer [1#8]) (want 1)).cap) := by decide
theorem witness_MarksAreStickyAndNeverFinal :
    (∃ f, step (atReset 0x30000000#32 [.execute .ctrl]) = .fault f) ∧
    (∃ r, step (issuing ⟨0x40000001#32, []⟩ .idle) = .refused r) ∧
    ¬ State.unmarked { State.reset with faultMark := some (.notLive .ctrl 0x30000000#32) } ∧
    ∃ s, State.fresh (small .async) 8 = some s :=
  ⟨⟨_, rfl⟩, ⟨_, rfl⟩, by decide, _, rfl⟩
theorem witness_SecondAgentIsRefused :
    State.unmarked { State.reset with agenda := [.attachSecond .producer] } ∧
    ({ State.reset with agenda := [.attachSecond .consumer] } : State).agenda = [.attachSecond .consumer] := by decide
theorem witness_CrossingDeliversTheHead :
    (midway .idle .idle [.agent .xw]).unmarked ∧ (midway .idle .idle [.agent .xw]).cfg.crossing = .async ∧
    (midway .idle .idle [.agent .xw]).qW = [12, 13, 14] ∧ (midway .idle .idle [.agent .xr]).qR = [] ∧
    ({ midway .idle .idle [.agent .xr] with qR := [4, 5] } : State).qR = [4, 5] := by decide
theorem witness_SnapshotsAreMonotone :
    ∃ t, (midway .idle .idle [.agent .xw]).Inv ∧ step (midway .idle .idle [.agent .xw]) = .next t ∧ t.live = true :=
  ⟨_, midway_idle_inv _, rfl, rfl⟩
theorem witness_SnapshotBoundsHold : (midway .idle .idle []).Inv ∧ (midway .idle .idle []).live = true :=
  ⟨midway_idle_inv _, rfl⟩
theorem witness_ReadAfterDeliveryDrainsTheStream_of_one_read :
    ∃ s : State, s = midway .idle (want 6) [.agent .xw, .agent .xw, .agent .xw, .execute .cons] ∧ s.Inv ∧ s.live = true ∧
      s.unmarked ∧ s.cons.state = .busy ⟨0x50000006#32, []⟩ ∧
      decode .cons 0x50000006#32 = .ok (.read 6) ∧ s.totalR < s.totalW ∧ s.totalW - s.totalR ≤ 6 ∧
      s.agenda = List.replicate s.qW.length (.agent .xw) ++ .execute .cons :: [] :=
  ⟨_, rfl, midway_inv _ _ _ (idle_wellFormed _) want_wellFormed, rfl, by decide, by decide, rfl, by decide, by decide,
    by decide⟩
/-- The same under SYNC, where nothing is under way. -/
theorem witness_ReadAfterDeliveryDrainsTheStream_of_sync :
    (exact8 .idle (want 6)).Inv ∧ (exact8 .idle (want 6)).live = true ∧ (exact8 .idle (want 6)).unmarked ∧
    (exact8 .idle (want 6)).totalR < (exact8 .idle (want 6)).totalW ∧
    (exact8 .idle (want 6)).totalW - (exact8 .idle (want 6)).totalR ≤ 6 ∧ (exact8 .idle (want 6)).qW.length = 0 :=
  ⟨exact8_inv _ _ (idle_wellFormed _) want_wellFormed, rfl, by decide, by decide, by decide, rfl⟩
/-- No split, the exact end, and a split (L2.4, W9, W3 and W6). -/
theorem witness_TransferIsTwoContiguousChunks :
    (4 < 8 ∧ 2 ≤ 8 ∧ 4 + 2 ≤ 8) ∧ (4 + 4 ≤ 8 ∧ secondChunk 8 4 4 = 0) ∧ (8 < 7 + 7 ∧ secondChunk 8 7 7 = 6) := by decide
theorem witness_WritesAndReadsAreDisjoint :
    (midway .idle .idle []).Inv ∧ (midway .idle .idle []).live = true ∧ (midway .idle .idle []).readOffsets 6 = [2] ∧
    (exact8 .idle .idle).Inv ∧ (exact8 .idle .idle).live = true ∧
    (exact8 .idle .idle).writeOffsets 6 = [4, 5, 6, 7, 0, 1] :=
  ⟨midway_idle_inv _, rfl, by decide, exact8_idle_inv, rfl, by decide⟩
theorem witness_StepKeepsStorageCanonical :
    ∃ t, (midway .idle .idle [.agent .xw]).storage.wf ∧ step (midway .idle .idle [.agent .xw]) = .next t :=
  ⟨_, (midway_idle_inv _).memory, rfl⟩
/-- A step of each kind that changes LIVE: CREATE, RELEASE and hardware reset. -/
theorem witness_OnlyLifecycleCommandsChangeLive :
    (∃ t, step (atReset 0x10000008#32 [.execute .ctrl]) = .next t ∧ t.live = true) ∧
    (∃ t, step { midway .idle .idle [.execute .ctrl] with
      ctrl := { PortUnit.empty with state := .busy ⟨0x20000000#32, []⟩ } } = .next t ∧ t.live = false) ∧
    (∃ t, step (midway .idle .idle [.hardwareReset]) = .next t ∧ t.live = false) :=
  ⟨⟨_, rfl, rfl⟩, ⟨_, rfl, rfl⟩, ⟨_, rfl, rfl⟩⟩
theorem witness_CapacityIsImmutableWhileLive :
    ∃ t, (midway .idle .idle [.agent .xw]).live = true ∧ step (midway .idle .idle [.agent .xw]) = .next t ∧ t.live = true :=
  ⟨_, rfl, rfl, rfl⟩
theorem witness_EachCounterHasOneWriter :
    ∃ t, step (live8 30 8 (offer [1#8]) .idle) = .next (live8 30 8 (offer [1#8]) .idle) ∧
      step { live8 30 8 (offer [1#8]) .idle with agenda := [.execute .prod] } = .next t ∧ t.live = true ∧ t.wrPtr ≠ 30 :=
  ⟨_, rfl, rfl, rfl, by decide⟩
theorem witness_WriteAndReadAlwaysComplete :
    (midway (offer [7#8]) (want 6) [.execute .prod]).Inv ∧ (midway (offer [7#8]) (want 6) [.execute .prod]).live = true ∧
    (midway (offer [7#8]) (want 6) [.execute .prod]).unmarked ∧
    (midway (offer [7#8]) (want 6) [.execute .prod]).agenda = [.execute .prod] :=
  ⟨midway_busy_inv _, rfl, ⟨rfl, rfl⟩, rfl⟩
theorem witness_InternalFaultsAreUnreachable :
    (midway (offer [7#8]) (want 6) [.execute .prod]).Inv ∧ (midway (offer [7#8]) (want 6) [.execute .prod]).unmarked :=
  ⟨midway_busy_inv _, ⟨rfl, rfl⟩⟩
theorem witness_ResponsesDependOnCountersModuloTwoC :
    (∃ t, exec (.write 1) (live8 30 8 (offer [1#8]) (want 1)) = .next t) ∧
    (∃ t, exec (.read 1) (live8 30 8 (offer [1#8]) (want 1)) = .next t) ∧
    14 % (2 * (live8 30 8 (offer [1#8]) (want 1)).cap) = 30 % (2 * (live8 30 8 (offer [1#8]) (want 1)).cap) ∧
    24 % (2 * (live8 30 8 (offer [1#8]) (want 1)).cap) = 8 % (2 * (live8 30 8 (offer [1#8]) (want 1)).cap) :=
  ⟨⟨_, rfl⟩, ⟨_, rfl⟩, by decide, by decide⟩
theorem witness_ItemsWithoutValueAreNotObserved :
    State.reset.live = false ∧ (∃ t, exec (.create 8) State.reset = .next t ∧ t.live = true) ∧
    (∃ f, exec .capq State.reset = .fault f) ∧ (∃ r, exec (.write 1) State.reset = .refused r) :=
  ⟨rfl, ⟨_, rfl, rfl⟩, ⟨_, rfl⟩, ⟨_, rfl⟩⟩
theorem witness_HardwareResetEndsTheInstance :
    (midway (offer [7#8]) (want 6) [.hardwareReset]).unmarked ∧
    (midway (offer [7#8]) (want 6) [.hardwareReset]).agenda = [.hardwareReset] := ⟨⟨rfl, rfl⟩, rfl⟩
theorem witness_FreshInstanceIsAsTheRuleSays :
    (small .async).wf ∧ (∃ s, State.fresh (small .async) 8 = some s) ∧ State.fresh (small .async) 9 = none :=
  ⟨by decide, ⟨_, rfl⟩, rfl⟩
theorem witness_InvariantHoldsAtReset : (small .async).wf ∧ (small .sync).wf ∧ Config.standard.wf := by decide
theorem witness_EveryStepKeepsTheInvariant :
    ∃ t, (midway (offer [7#8]) (want 6) [.execute .cons]).Inv ∧
      step (midway (offer [7#8]) (want 6) [.execute .cons]) = .next t := ⟨_, midway_busy_inv _, rfl⟩
theorem witness_CountersAreTheFoldedTotals_of_create :
    ∃ t, exec (.create 8) (State.resetWith (small .async)) = .next t ∧ t.live = true := ⟨_, rfl, rfl⟩
/-- A run with a live state: HOST issues `create 8` and the controller executes it. -/
theorem witness_CountersAreTheFoldedTotalsOnEveryRun :
    ∃ s, (small .async).wf ∧ core.run 2 ((State.resetWith (small .async)).load [⟨0x10000008#32, []⟩] [] []
      [.agent .host, .execute .ctrl]) = .next s ∧ s.live = true := ⟨_, by decide, rfl, rfl⟩
/-- A run that delivers a byte: `create 8`, `put 5`, XW, `get`. -/
theorem witness_NoByteIsLostOrReorderedOnAnyRun :
    ∃ s, (small .async).wf ∧ core.run 7 ((State.resetWith (small .async)).load [⟨0x10000008#32, []⟩] [⟨0x40000001#32, [5#8]⟩]
      [⟨0x50000001#32, []⟩] [.agent .host, .execute .ctrl, .agent .prod, .execute .prod, .agent .xw, .agent .cons,
        .execute .cons]) = .next s ∧ s.live = true ∧ s.delivered = [5#8] := ⟨_, by decide, rfl, rfl, rfl⟩

theorem witness_SyncSnapshotsAreExact : (exact8 .idle .idle).Inv ∧ (exact8 .idle .idle).live = true ∧ (exact8 .idle .idle).cfg.crossing = .sync :=
  ⟨exact8_idle_inv, rfl, rfl⟩
theorem witness_OccupancyTellsFullFromEmpty :
    ((exact8 .idle .idle).Inv ∧ (exact8 .idle .idle).live = true ∧ (exact8 .idle .idle).fill = .partly) ∧
    ((midway .idle .idle []).Inv ∧ (midway .idle .idle []).live = true ∧ (midway .idle .idle []).fill = .full) :=
  ⟨⟨exact8_idle_inv, rfl, by decide⟩, midway_idle_inv _, rfl, by decide⟩

/-- The schedule that runs XW and XR in turn. -/
def turns : Schedule := fun k => if k % 2 = 0 then .agent .xw else .agent .xr

theorem runUnder_turns (k : Nat) :
    ∃ t, runUnder turns k (midway .idle .idle []) = .next t ∧ t.live = true ∧ t.faultMark = none ∧ t.refusalMark = none := by
  induction k with
  | zero => exact ⟨_, rfl, rfl, rfl, rfl⟩
  | succ k ih =>
    obtain ⟨t, ht, hl, hf, hr⟩ := ih
    rw [runUnder, ht]
    show ∃ u, step { t with agenda := [turns k] } = .next u ∧ _
    rw [step_event (s := { t with agenda := [turns k] }) (rest := []) hf hr rfl, turns]
    split
    · exact ⟨State.stepXW { t with agenda := [] }, rfl, by simp [hl], by simp [hf], by simp [hr]⟩
    · exact ⟨State.stepXR { t with agenda := [] }, rfl, by simp [hl], by simp [hf], by simp [hr]⟩

theorem turns_fair (s : State) : crossingFair turns s :=
  fun k => ⟨fun _ => ⟨2 * k, by omega, by simp [turns]⟩, fun _ => ⟨2 * k + 1, by omega, by simp [turns, Nat.add_mod]⟩⟩

theorem witness_EveryPublicationIsEventuallyDelivered :
    (midway .idle .idle []).Inv ∧ (midway .idle .idle []).cfg.crossing = .async ∧
    crossingFair turns (midway .idle .idle []) ∧
    (∀ k, ∃ t, runUnder turns k (midway .idle .idle []) = .next t ∧ t.live = true) ∧
    (midway .idle .idle []).totalWs < (midway .idle .idle []).totalW :=
  ⟨midway_idle_inv _, rfl, turns_fair _,
    fun k => by obtain ⟨t, ht, hl, -⟩ := runUnder_turns k; exact ⟨t, ht, hl⟩, by decide⟩

/-- A consumer that never stops: it decides on a READ of one byte, issues it, it is executed, and XW and XR take a step. -/
def polling : Schedule := fun k =>
  match k % 5 with
  | 0 => .extend .cons { word := 0x50000001#32, payload := [] }
  | 1 => .agent .cons
  | 2 => .execute .cons
  | 3 => .agent .xw
  | _ => .agent .xr

theorem polling_fair (s : State) : crossingFair polling s := by
  refine fun k => ⟨fun _ => ⟨5 * k + 3, by omega, ?_⟩, fun _ => ⟨5 * k + 4, by omega, ?_⟩⟩
  · simp only [polling, show (5 * k + 3) % 5 = 3 by omega]
  · simp only [polling, show (5 * k + 4) % 5 = 4 by omega]

theorem polling_silent : producerSilent polling := by
  intro k t
  unfold polling
  split <;> simp

/-- P3 drained: `RD = RS = 6`, `WS = 14`, nothing under way. -/
def drained (cons : PortUnit) : State :=
  { midway .idle .idle [] with
    rdPtr := 6, rdSeen := 6, wrSeen := 14, qW := [], delivered := [1#8, 2#8, 3#8, 4#8, 5#8, 6#8], cons := cons }

/-- The READ of one byte that polling decides on. -/
def poll : Transaction := { word := 0x50000001#32, payload := [] }

theorem runUnder_next {σ : Schedule} {k : Nat} {s t : State} (h : runUnder σ k s = .next t) :
    runUnder σ (k + 1) s = step { t with agenda := [σ k] } := by rw [runUnder, h]

/-- The states of one round of polling, which is answered WOULD_BLOCK. -/
def round (rs : List Response) : Nat → PortUnit
  | 0 => ⟨.idle, [], rs⟩
  | 1 => ⟨.idle, [poll], rs⟩
  | 2 => ⟨.busy poll, [], rs⟩
  | _ => ⟨.idle, [], rs ++ [⟨responseWord .wouldBlock 0, []⟩]⟩

theorem read_drained (rs : List Response) :
    step { drained (round rs 2) with agenda := [.execute .cons] } = .next (drained (round rs 3)) := by
  have hdecode : decode .cons poll.word = .ok (.read 1) := rfl
  have hocc : State.occConsumer { drained (round rs 2) with agenda := [] } = 0 := (by decide : occupancy 4 14 6 = 0)
  rw [step_event (s := { drained (round rs 2) with agenda := [.execute .cons] }) (rest := []) rfl rfl rfl]
  show State.executePort { drained (round rs 2) with agenda := [] } .cons = _
  simp only [State.executePort, show (State.port { drained (round rs 2) with agenda := [] } .cons).state = .busy poll from rfl,
    hdecode]
  show execRead 1 _ = _
  rw [execRead, if_neg (by show ¬(!true) = true; decide), if_neg (by decide), hocc, if_neg (Nat.not_lt_zero _), if_pos rfl]
  rfl

theorem polling_step (n i : Nat) (hi : i < 5) (rs : List Response) :
    step { drained (round rs i) with agenda := [polling (20 + 5 * n + i)] } = .next (drained (round rs (i + 1))) := by
  have h : (20 + 5 * n + i) % 5 = i := by omega
  simp only [polling, h]
  match i, hi with
  | 0, _ => rfl
  | 1, _ => rfl
  | 2, _ => exact read_drained rs
  | 3, _ => rfl
  | 4, _ => rfl

theorem polling_within (n : Nat) (rs : List Response)
    (h : runUnder polling (20 + 5 * n) (midway .idle .idle []) = .next (drained (round rs 0))) :
    ∀ i, i ≤ 5 → runUnder polling (20 + 5 * n + i) (midway .idle .idle []) = .next (drained (round rs i)) := by
  intro i hi
  induction i with
  | zero => exact h
  | succ i ih => rw [← Nat.add_assoc, runUnder_next (ih (by omega)), polling_step n i (by omega) rs]

/-- Four rounds drain P3 after line 10, one byte a round; after them every round begins drained. -/
theorem polling_drained (n : Nat) :
    ∃ rs, runUnder polling (20 + 5 * n) (midway .idle .idle []) = .next (drained (round rs 0)) := by
  induction n with
  | zero => exact ⟨[⟨0x00000001#32, [3#8]⟩, ⟨0x00000001#32, [4#8]⟩, ⟨0x00000001#32, [5#8]⟩, ⟨0x00000001#32, [6#8]⟩], rfl⟩
  | succ n ih =>
    obtain ⟨rs, h⟩ := ih
    exact ⟨rs ++ [⟨responseWord .wouldBlock 0, []⟩], polling_within n rs h 5 (by omega)⟩

theorem polling_late (k : Nat) (hk : 20 ≤ k) :
    ∃ cons, runUnder polling k (midway .idle .idle []) = .next (drained cons) := by
  obtain ⟨rs, h⟩ := polling_drained ((k - 20) / 5)
  have := polling_within _ rs h ((k - 20) % 5) (by omega)
  rw [show 20 + 5 * ((k - 20) / 5) + (k - 20) % 5 = k by omega] at this
  exact ⟨_, this⟩

/-- The first four rounds: every step answers a live state, and until the last READ a READ is still to be executed. -/
theorem polling_early : ∀ k < 20, nextSatisfies (runUnder polling k (midway .idle .idle []))
    (fun t => t.live && (decide (k ≤ 17) || decide (t.totalR = 6))) = true := by decide

/-- P3 after line 10 with a consumer that polls for ever: the run drains the stream. -/
theorem witness_ReadAfterDeliveryDrainsTheStream :
    ∃ s : State, s = midway .idle .idle [] ∧ s.Inv ∧ s.producerStopped ∧ producerSilent polling ∧ crossingFair polling s ∧
      (∀ k, ∃ t, runUnder polling k s = .next t ∧ t.live = true) ∧
      (∀ k t, runUnder polling k s = .next t → t.totalR < s.totalW → ∃ j, k ≤ j ∧ readExecutesAt polling s j) ∧
      s.totalR < s.totalW := by
  refine ⟨_, rfl, midway_idle_inv _, ⟨rfl, rfl⟩, polling_silent, polling_fair _, ?_, ?_, by decide⟩
  · intro k
    by_cases hk : k < 20
    · have h := polling_early k hk
      unfold nextSatisfies at h
      split at h
      · rename_i t ht
        exact ⟨t, ht, by simp only [Bool.and_eq_true] at h; exact h.1⟩
      · cases h
    · obtain ⟨cons, h⟩ := polling_late k (by omega)
      exact ⟨_, h, rfl⟩
  · intro k t ht hlt
    have read (j : Nat) (hj : j ∈ [2, 7, 12, 17]) : readExecutesAt polling (midway .idle .idle []) j := by
      simp only [List.mem_cons, List.not_mem_nil, or_false] at hj
      rcases hj with rfl | rfl | rfl | rfl <;> exact ⟨rfl, _, _, 1, rfl, rfl, rfl, by decide⟩
    by_cases hk : k ≤ 17
    · exact ⟨17, hk, read 17 (by decide)⟩
    · have : t.totalR = 6 := by
        by_cases hk' : k < 20
        · have h := polling_early k hk'
          rw [ht] at h
          have h' : t.live = true ∧ t.totalR = 6 := by simpa [nextSatisfies, hk] using h
          exact h'.2
        · obtain ⟨cons, h⟩ := polling_late k (by omega)
          rw [h] at ht
          cases ht
          rfl
      exact absurd hlt (by rw [this]; decide)

end Sys2Proof.Tests
end

section
/-! What WRITE and READ answer in each case of R126's order of checks: the converses of `execWrite_cases` and
`execRead_cases`, one equation per case. -/

namespace Sys2Proof.Machine

namespace State

@[simp] theorem respond_prod_prod (s : State) (st : Status) (v : Nat) (d : List Byte) :
    (s.respond .prod st v d).prod = s.prod.answer st v d := rfl

@[simp] theorem respond_cons_cons (s : State) (st : Status) (v : Nat) (d : List Byte) :
    (s.respond .cons st v d).cons = s.cons.answer st v d := rfl

end State

variable {s : State} {len : Nat}

/-! ## WRITE (R91) -/

theorem execWrite_of_zero (hpay : s.prod.payload.length = 0) (hlive : s.live = true) :
    execWrite 0 s = .next (s.respond .prod .ok 0 []) := by
  simp [execWrite, hpay, hlive]

theorem execWrite_of_full (hpay : s.prod.payload.length = len) (hlive : s.live = true) (hlen : len ≠ 0)
    (hocc : s.occProducer ≤ s.cap) (hfull : s.freeProducer = 0) :
    execWrite len s = .next (s.respond .prod .wouldBlock 0 []) := by
  simp [execWrite, hpay, hlive, hlen, Nat.not_lt.mpr hocc, hfull]

theorem execWrite_of_space (hpay : s.prod.payload.length = len) (hlive : s.live = true) (hlen : len ≠ 0)
    (hocc : s.occProducer ≤ s.cap) (hfree : s.freeProducer ≠ 0) (hin : ∀ off ∈ s.writeOffsets len, off < s.storeSize) :
    execWrite len s = .next ((State.publishWr
      { s with
        storage := s.storage.writeAll ((s.writeOffsets len).zip (s.prod.payload.take (s.writeCount len)))
        accepted := s.accepted ++ s.prod.payload.take (s.writeCount len) }
      (foldWr s.cap s.wrPtr (s.writeCount len))).respond .prod .ok (s.writeCount len) []) := by
  simp [execWrite, hpay, hlive, hlen, Nat.not_lt.mpr hocc, hfree, Memory.storeAt_eq_some.mpr ⟨hin, rfl⟩]

/-! ## READ (R101) -/

theorem execRead_of_zero (hlive : s.live = true) : execRead 0 s = .next (s.respond .cons .ok 0 []) := by
  simp [execRead, hlive]

theorem execRead_of_empty (hlive : s.live = true) (hlen : len ≠ 0) (hempty : s.occConsumer = 0) :
    execRead len s = .next (s.respond .cons .wouldBlock 0 []) := by
  simp [execRead, hlive, hlen, hempty]

theorem execRead_of_bytes (hlive : s.live = true) (hlen : len ≠ 0) (hocc : s.occConsumer ≤ s.cap)
    (hsome : s.occConsumer ≠ 0) (hin : ∀ off ∈ s.readOffsets len, off < s.storeSize) :
    execRead len s = .next ((State.publishRd
      { s with delivered := s.delivered ++ (s.readOffsets len).map (s.storage.byteAt s.freeStamp) }
      (foldRd s.cap s.rdPtr (s.readCount len))).respond .cons .ok (s.readCount len)
        ((s.readOffsets len).map (s.storage.byteAt s.freeStamp))) := by
  simp [execRead, hlive, hlen, Nat.not_lt.mpr hocc, hsome, Memory.loadAt_eq_some.mpr ⟨hin, rfl⟩]

end Sys2Proof.Machine
end

section
/-! WRITE and READ look at the counters through their occupancy, which is a difference modulo `2c` (R30), and through
the offset of the own counter modulo `c` (R40, R96). So congruent counters give the same bytes and answers (R10). -/

namespace Sys2Proof.Machine

theorem modSub_congr {a a' b b' m : Nat} (ha : a' % m = a % m) (hb : b' % m = b % m) :
    modSub a' b' m = modSub a b m := by
  have hcast : ∀ {x y : Nat}, x % m = y % m → (x : Int) ≡ y [ZMOD m] := fun h => Int.natCast_modEq_iff.mpr h
  exact congrArg Int.toNat ((hcast ha).sub (hcast hb))

namespace State

/-- The state with other values in the four counters. -/
def withCounters (s : State) (wp rp ws rs : Nat) : State :=
  { s with wrPtr := wp, rdPtr := rp, wrSeen := ws, rdSeen := rs }

@[simp] theorem withCounters_storage (s : State) (wp rp ws rs : Nat) :
    (s.withCounters wp rp ws rs).storage = s.storage := rfl
@[simp] theorem withCounters_prod (s : State) (wp rp ws rs : Nat) :
    (s.withCounters wp rp ws rs).prod = s.prod := rfl
@[simp] theorem withCounters_cons (s : State) (wp rp ws rs : Nat) :
    (s.withCounters wp rp ws rs).cons = s.cons := rfl
@[simp] theorem withCounters_freeStamp (s : State) (wp rp ws rs : Nat) :
    (s.withCounters wp rp ws rs).freeStamp = s.freeStamp := rfl
@[simp] theorem withCounters_accepted (s : State) (wp rp ws rs : Nat) :
    (s.withCounters wp rp ws rs).accepted = s.accepted := rfl
@[simp] theorem withCounters_delivered (s : State) (wp rp ws rs : Nat) :
    (s.withCounters wp rp ws rs).delivered = s.delivered := rfl

end State

/-! ## The producer's side: WR_PTR and RD_SEEN -/

section Producer

variable {s t : State} {wp rs : Nat} (hwp : wp % (2 * s.cap) = s.wrPtr % (2 * s.cap))
  (hrs : rs % (2 * s.cap) = s.rdSeen % (2 * s.cap)) (rp ws len : Nat)
include hwp hrs

theorem occProducer_withCounters : (s.withCounters wp rp ws rs).occProducer = s.occProducer :=
  modSub_congr hwp hrs

theorem freeProducer_withCounters : (s.withCounters wp rp ws rs).freeProducer = s.freeProducer :=
  congrArg (s.cap - ·) (occProducer_withCounters hwp hrs rp ws)

theorem writeCount_withCounters : (s.withCounters wp rp ws rs).writeCount len = s.writeCount len :=
  congrArg (min · len) (freeProducer_withCounters hwp hrs rp ws)

theorem writeOffsets_withCounters : (s.withCounters wp rp ws rs).writeOffsets len = s.writeOffsets len :=
  congrArg₂ (transferOffsets s.cap) (mod_cap_of_mod_two_cap hwp) (writeCount_withCounters hwp hrs rp ws len)

/-- WR_SEEN and RD_PTR may take any value: a WRITE does not look at them. -/
theorem execWrite_withCounters (h : execWrite len s = .next t) :
    ∃ t', execWrite len (s.withCounters wp rp ws rs) = .next t' ∧
      t'.prod = t.prod ∧ t'.storage = t.storage ∧ t'.accepted = t.accepted := by
  have hoccEq := occProducer_withCounters hwp hrs rp ws
  have hfreeEq := freeProducer_withCounters hwp hrs rp ws
  have hcount := writeCount_withCounters hwp hrs rp ws len
  have hoffs := writeOffsets_withCounters hwp hrs rp ws len
  obtain ⟨hpay, hlive, ⟨rfl, rfl⟩ | ⟨hlen, hocc, hfull, rfl⟩ | ⟨hlen, hocc, hfree, hin, rfl⟩⟩ := execWrite_cases h
  · exact ⟨_, execWrite_of_zero hpay hlive, rfl, rfl, rfl⟩
  · exact ⟨_, execWrite_of_full hpay hlive hlen (hoccEq ▸ hocc) (hfreeEq ▸ hfull), rfl, rfl, rfl⟩
  · refine ⟨_, execWrite_of_space hpay hlive hlen (hoccEq ▸ hocc) (hfreeEq ▸ hfree) (hoffs ▸ hin), ?_⟩
    simp [hcount, hoffs]

end Producer

/-! ## The consumer's side: RD_PTR and WR_SEEN -/

section Consumer

variable {s t : State} {rp ws : Nat} (hws : ws % (2 * s.cap) = s.wrSeen % (2 * s.cap))
  (hrp : rp % (2 * s.cap) = s.rdPtr % (2 * s.cap)) (wp rs len : Nat)
include hws hrp

theorem occConsumer_withCounters : (s.withCounters wp rp ws rs).occConsumer = s.occConsumer :=
  modSub_congr hws hrp

theorem readCount_withCounters : (s.withCounters wp rp ws rs).readCount len = s.readCount len :=
  congrArg (min · len) (occConsumer_withCounters hws hrp wp rs)

theorem readOffsets_withCounters : (s.withCounters wp rp ws rs).readOffsets len = s.readOffsets len :=
  congrArg₂ (transferOffsets s.cap) (mod_cap_of_mod_two_cap hrp) (readCount_withCounters hws hrp wp rs len)

/-- WR_PTR and RD_SEEN may take any value: a READ does not look at them. -/
theorem execRead_withCounters (h : execRead len s = .next t) :
    ∃ t', execRead len (s.withCounters wp rp ws rs) = .next t' ∧
      t'.cons = t.cons ∧ t'.storage = t.storage ∧ t'.delivered = t.delivered := by
  have hoccEq := occConsumer_withCounters hws hrp wp rs
  have hcount := readCount_withCounters hws hrp wp rs len
  have hoffs := readOffsets_withCounters hws hrp wp rs len
  obtain ⟨hlive, ⟨rfl, rfl⟩ | ⟨hlen, hempty, rfl⟩ | ⟨hlen, hocc, hsome, hin, rfl⟩⟩ := execRead_cases h
  · exact ⟨_, execRead_of_zero hlive, rfl, rfl, rfl⟩
  · exact ⟨_, execRead_of_empty hlive hlen (hoccEq ▸ hempty), rfl, rfl, rfl⟩
  · refine ⟨_, execRead_of_bytes hlive hlen (hoccEq ▸ hocc) (hoccEq ▸ hsome) (hoffs ▸ hin), ?_⟩
    simp [hcount, hoffs]

end Consumer

/-- Settles O52: each command sees the counters through its occupancy and its offsets, which congruent counters share. -/
theorem responsesDependOnCountersModuloTwoC : Obligations.ResponsesDependOnCountersModuloTwoC := by
  intro s t wp rp ws rs len hwp hrp hws hrs
  exact ⟨execWrite_withCounters hwp hrs rp ws len, execRead_withCounters hws hrp wp rs len⟩

end Sys2Proof.Machine
end

section
/-! The counters of a live buffer as its totals (R29): a fold is the next total (R95, R104), a width cuts nothing off
(R9), a transfer begins at the total's offset (R40), and a publication moves the totals of the crossing (R44, R45). -/

namespace Sys2Proof.Machine

/-! ## Folds, widths and offsets -/

/-- Past the end of the doubled space the second chunk is what is left of the counter (R95, R104). -/
theorem secondChunk_of_fold {c r n : Nat} (hr : r < 2 * c) (hn : n ≤ c) (hfold : 2 * c ≤ r + n) :
    secondChunk c (r % c) n = r + n - 2 * c := by
  have hmod : r % c = r - c := by
    rw [Nat.mod_eq_sub_mod (by omega), Nat.mod_eq_of_lt (by omega)]
  unfold secondChunk
  split <;> omega

theorem total_mod_add {c total n : Nat} (hc : 0 < c) (hn : n ≤ c) :
    (total + n) % (2 * c) =
      if 2 * c ≤ total % (2 * c) + n then total % (2 * c) + n - 2 * c else total % (2 * c) + n := by
  rw [Nat.add_mod, Nat.mod_eq_of_lt (show n < 2 * c by omega), Nat.add_mod_eq_ite, Nat.mod_mod,
    Nat.mod_eq_of_lt (show n < 2 * c by omega)]

theorem foldWr_wrOfTotal {c n : Nat} (total : Nat) (hc : 0 < c) (hn : n ≤ c) :
    foldWr c (wrOfTotal c total) n = wrOfTotal c (total + n) := by
  have hr := Nat.mod_lt total (show 0 < 2 * c by omega)
  have hoff : (2 * c + total % (2 * c)) % c = total % (2 * c) % c := by simp
  unfold foldWr wrOfTotal
  rw [total_mod_add hc hn, hoff]
  by_cases hfold : 2 * c ≤ total % (2 * c) + n
  · rw [if_pos (by omega), if_pos hfold, secondChunk_of_fold hr hn hfold]
  · rw [if_neg (by omega), if_neg hfold]
    omega

theorem foldRd_rdOfTotal {c n : Nat} (total : Nat) (hc : 0 < c) (hn : n ≤ c) :
    foldRd c (rdOfTotal c total) n = rdOfTotal c (total + n) := by
  have hr := Nat.mod_lt total (show 0 < 2 * c by omega)
  unfold foldRd rdOfTotal
  rw [total_mod_add hc hn]
  by_cases hfold : 2 * c ≤ total % (2 * c) + n
  · rw [if_pos (by omega), if_pos hfold, secondChunk_of_fold hr hn hfold]
  · rw [if_neg (by omega), if_neg hfold]

/-- A write counter fits its `M+2` bits when the capacity fits the store. -/
theorem wrOfTotal_lt_width {cfg : Config} {c : Nat} (hc : 0 < c) (hfit : c ≤ 2 ^ cfg.maxLog2) (total : Nat) :
    wrOfTotal c total < 2 ^ (cfg.maxLog2 + 2) := by
  calc wrOfTotal c total < 4 * c := (wrOfTotal_range hc total).2
    _ ≤ 2 ^ cfg.maxLog2 * 2 ^ 2 := by omega
    _ = 2 ^ (cfg.maxLog2 + 2) := (Nat.pow_add 2 _ 2).symm

theorem rdOfTotal_lt_width {cfg : Config} {c : Nat} (hc : 0 < c) (hfit : c ≤ 2 ^ cfg.maxLog2) (total : Nat) :
    rdOfTotal c total < 2 ^ (cfg.maxLog2 + 1) := by
  have := rdOfTotal_lt hc total
  omega

theorem wrWidth_wrOfTotal {cfg : Config} {c : Nat} (hc : 0 < c) (hfit : c ≤ 2 ^ cfg.maxLog2) (total : Nat) :
    wrWidth cfg (wrOfTotal c total) = wrOfTotal c total := Nat.mod_eq_of_lt (wrOfTotal_lt_width hc hfit total)

theorem rdWidth_rdOfTotal {cfg : Config} {c : Nat} (hc : 0 < c) (hfit : c ≤ 2 ^ cfg.maxLog2) (total : Nat) :
    rdWidth cfg (rdOfTotal c total) = rdOfTotal c total := Nat.mod_eq_of_lt (rdOfTotal_lt_width hc hfit total)

theorem transferOffsets_mod (c start n : Nat) : transferOffsets c (start % c) n = transferOffsets c start n := by
  simp [transferOffsets]

/-- Counters that agree modulo `2c` begin a transfer at the same offset (R96). -/
theorem transferOffsets_of_counter {c x y n : Nat} (h : x % (2 * c) = y % (2 * c)) :
    transferOffsets c (x % c) n = transferOffsets c y n := by
  rw [mod_cap_of_mod_two_cap h, transferOffsets_mod]

/-! ## Publications -/

@[simp] theorem publicationsPending_nil {seen latest : Nat} : publicationsPending seen latest [] ↔ seen = latest := by
  simp [publicationsPending]

/-- Every total under way is above the delivered one and at most the latest (R48). -/
theorem publicationsPending_head_le {seen latest a : Nat} {totals : List Nat}
    (h : publicationsPending seen latest (a :: totals)) : seen < a ∧ a ≤ latest :=
  ⟨(publicationsPending_deliver h).2, publicationsPending_le (publicationsPending_deliver h).1⟩

/-- Publishing a write counter of a larger total (R45): an ASYNC crossing queues it, a SYNC one shows it at once. -/
theorem publishWr_publications {s : State} {c ws latest new : Nat} {tw : List Nat}
    (hseen : s.wrSeen = wrOfTotal c ws) (hq : s.qW = tw.map (wrOfTotal c)) (hpend : publicationsPending ws latest tw)
    (hsync : s.cfg.crossing = .sync → s.qW = []) (hnew : latest < new)
    (hwidth : wrWidth s.cfg (wrOfTotal c new) = wrOfTotal c new) :
    ∃ ws' tw', (s.publishWr (wrOfTotal c new)).wrSeen = wrOfTotal c ws' ∧
      (s.publishWr (wrOfTotal c new)).qW = tw'.map (wrOfTotal c) ∧
      publicationsPending ws' new tw' ∧ ws ≤ ws' := by
  cases hcross : s.cfg.crossing with
  | async =>
    rw [State.publishWr_async _ _ hcross, hwidth]
    exact ⟨ws, tw ++ [new], hseen, by simp [hq], publicationsPending_publish hpend hnew, Nat.le_refl ws⟩
  | sync =>
    rw [State.publishWr_sync _ _ hcross, hwidth]
    have := publicationsPending_le hpend
    exact ⟨new, [], rfl, hsync hcross, publicationsPending_nil.mpr rfl, by omega⟩

/-- Publishing a read counter of a larger total (R45). -/
theorem publishRd_publications {s : State} {c rs latest new : Nat} {tr : List Nat}
    (hseen : s.rdSeen = rdOfTotal c rs) (hq : s.qR = tr.map (rdOfTotal c)) (hpend : publicationsPending rs latest tr)
    (hsync : s.cfg.crossing = .sync → s.qR = []) (hnew : latest < new)
    (hwidth : rdWidth s.cfg (rdOfTotal c new) = rdOfTotal c new) :
    ∃ rs' tr', (s.publishRd (rdOfTotal c new)).rdSeen = rdOfTotal c rs' ∧
      (s.publishRd (rdOfTotal c new)).qR = tr'.map (rdOfTotal c) ∧
      publicationsPending rs' new tr' ∧ rs ≤ rs' := by
  cases hcross : s.cfg.crossing with
  | async =>
    rw [State.publishRd_async _ _ hcross, hwidth]
    exact ⟨rs, tr ++ [new], hseen, by simp [hq], publicationsPending_publish hpend hnew, Nat.le_refl rs⟩
  | sync =>
    rw [State.publishRd_sync _ _ hcross, hwidth]
    have := publicationsPending_le hpend
    exact ⟨new, [], rfl, hsync hcross, publicationsPending_nil.mpr rfl, by omega⟩

theorem publishWr_qW_of_sync {s : State} (v : Nat) (h : s.cfg.crossing = .sync) : (s.publishWr v).qW = s.qW := by
  rw [State.publishWr_sync _ _ h]

theorem publishRd_qR_of_sync {s : State} (v : Nat) (h : s.cfg.crossing = .sync) : (s.publishRd v).qR = s.qR := by
  rw [State.publishRd_sync _ _ h]

/-! ## A live buffer -/

theorem wrPtr_mod_two_cap {s : State} (h : s.countersOk) : s.wrPtr % (2 * s.cap) = s.totalW % (2 * s.cap) := by
  obtain ⟨-, -, hw, -⟩ := h
  rw [hw, wrOfTotal_mod]

theorem rdPtr_mod_two_cap {s : State} (h : s.countersOk) : s.rdPtr % (2 * s.cap) = s.totalR % (2 * s.cap) := by
  obtain ⟨-, -, -, hr, -⟩ := h
  rw [hr, rdOfTotal_mod]

/-- A WRITE stores from the offset of the first byte not yet accepted on (R51, R96). -/
theorem writeOffsets_eq_totalW {s : State} (h : s.countersOk) (len : Nat) :
    s.writeOffsets len = transferOffsets s.cap s.totalW (s.writeCount len) :=
  transferOffsets_of_counter (wrPtr_mod_two_cap h)

/-- A READ reads from the offset of the first byte not yet delivered on (R51). -/
theorem readOffsets_eq_totalR {s : State} (h : s.countersOk) (len : Nat) :
    s.readOffsets len = transferOffsets s.cap s.totalR (s.readCount len) :=
  transferOffsets_of_counter (rdPtr_mod_two_cap h)

/-- The registers of a live buffer fit their widths because its capacity fits the store. -/
theorem widthsOk_of_countersOk {s : State} (h : s.countersOk) : s.widthsOk := by
  have hfit : s.cap ≤ 2 ^ s.cfg.maxLog2 := cap_le_storeSize h
  have hwr := wrOfTotal_lt_width (cap_pos s) hfit
  have hrd := rdOfTotal_lt_width (cap_pos s) hfit
  obtain ⟨-, -, hw, hr, ws, rs, tw, tr, hws, hrs, hqW, hqR, -⟩ := h
  refine ⟨hw ▸ hwr _, hws ▸ hwr _, hr ▸ hrd _, hrs ▸ hrd _, fun v hv => ?_, fun v hv => ?_⟩
  · obtain ⟨x, -, rfl⟩ := List.mem_map.mp (hqW ▸ hv)
    exact hwr x
  · obtain ⟨x, -, rfl⟩ := List.mem_map.mp (hqR ▸ hv)
    exact hrd x

/-! ## The totals of the snapshots -/

/-- The producer's occupancy is what it has not yet seen read (R30), so `R_s` is the total its snapshot stands for. -/
theorem occProducer_eq_sub_totalRs {s : State} (h : s.countersOk) :
    s.occProducer = s.totalW - s.totalRs ∧ s.totalRs ≤ s.totalW := by
  obtain ⟨rs, -, -, hle, -, hocc⟩ := countersOk_producer h
  unfold State.totalRs
  omega

/-- What the counters say of the crossing, the totals of the two snapshots being `W_s` and `R_s` (R30, R44, R49). -/
theorem countersOk_totals {s : State} (h : s.countersOk) : ∃ tw tr : List Nat,
    s.wrSeen = wrOfTotal s.cap s.totalWs ∧ s.rdSeen = rdOfTotal s.cap s.totalRs ∧
    s.qW = tw.map (wrOfTotal s.cap) ∧ s.qR = tr.map (rdOfTotal s.cap) ∧
    publicationsPending s.totalWs s.totalW tw ∧ publicationsPending s.totalRs s.totalR tr ∧
    s.totalRs ≤ s.totalR ∧ s.totalR ≤ s.totalWs ∧ s.totalWs ≤ s.totalW ∧ s.totalW ≤ s.totalRs + s.cap := by
  obtain ⟨-, -, hw, hr, ws, rs, tw, tr, hws, hrs, hqW, hqR, hpW, hpR, hrsR, hRws, hwsW, hWrs⟩ := h
  have hoccP : s.occProducer = s.totalW - rs := by
    rw [State.occProducer, State.sampleRd, hw, hrs]
    exact occupancy_of_totals (cap_pos s) (by omega) hWrs
  have hoccC : s.occConsumer = ws - s.totalR := by
    rw [State.occConsumer, State.sampleWr, hr, hws]
    exact occupancy_of_totals (cap_pos s) hRws (by omega)
  have hWs : s.totalWs = ws := by unfold State.totalWs; omega
  have hRs : s.totalRs = rs := by unfold State.totalRs; omega
  rw [hWs, hRs]
  exact ⟨tw, tr, hws, hrs, hqW, hqR, hpW, hpR, hrsR, hRws, hwsW, hWrs⟩

/-- A WRITE moves no more bytes than the consumer is known to have made room for (R49, R91). -/
theorem totalW_add_writeCount_le {s : State} (h : s.countersOk) (len : Nat) :
    s.totalW + s.writeCount len ≤ s.totalRs + s.cap := by
  obtain ⟨hocc, hle⟩ := occProducer_eq_sub_totalRs h
  obtain ⟨-, -, -, -, -, -, -, -, -, -, -, hWRs⟩ := countersOk_totals h
  have : s.writeCount len ≤ s.cap - s.occProducer := Nat.min_le_left _ _
  omega

/-- A READ moves no more bytes than have been published to the consumer (R49, R101). -/
theorem totalR_add_readCount_le (s : State) (len : Nat) : s.totalR + s.readCount len ≤ s.totalWs :=
  Nat.add_le_add_left (Nat.min_le_left _ _) _

theorem writeCount_le_cap (s : State) (len : Nat) : s.writeCount len ≤ s.cap :=
  (Nat.min_le_left _ _).trans (Nat.sub_le _ _)

theorem readCount_le_cap {s : State} (h : s.countersOk) (len : Nat) : s.readCount len ≤ s.cap := by
  obtain ⟨-, -, -, -, -, -, -, -, hRsR, -, hWsW, hWRs⟩ := countersOk_totals h
  have := totalR_add_readCount_le s len
  omega

end Sys2Proof.Machine
end

section
/-! What each update of the state keeps of the invariant: a port, a response, a delivery of the crossing, a new buffer
and the loss of one. WRITE and READ follow in sections of their own. -/

namespace Sys2Proof.Machine

/-! ## Ports -/

theorem portsOk_setPort {s : State} (h : s.portsOk) {p : Port} {u : PortUnit}
    (hu : ∀ t, u.state = .busy t → t.wellFormed p = true) : (s.setPort p u).portsOk := by
  intro q t ht
  by_cases hq : q = p
  · subst hq
    exact hu t (by simpa using ht)
  · exact h q t (by rwa [State.port_setPort_other _ _ _ _ hq] at ht)

theorem portsOk_of_port_eq {s t : State} (h : s.portsOk) (hport : ∀ p, t.port p = s.port p) : t.portsOk :=
  fun p tr htr => h p tr (hport p ▸ htr)

/-- No part of the invariant but `portsOk` speaks of a port. -/
theorem State.Inv.setPort {s : State} (h : s.Inv) {p : Port} {u : PortUnit}
    (hu : ∀ t, u.state = .busy t → t.wellFormed p = true) : (s.setPort p u).Inv := by
  have hports := portsOk_setPort h.ports hu
  cases p <;>
    exact ⟨h.cfgOk, h.widths, h.memory, hports, h.syncQueues, h.notLive, h.stream, h.counters, h.bytes⟩

theorem State.Inv.respond {s : State} (h : s.Inv) (p : Port) (st : Status) (v : Nat) (d : List Byte) :
    (s.respond p st v d).Inv := h.setPort nofun

/-- No part of the invariant speaks of the agenda. -/
theorem State.Inv.withAgenda {s : State} (h : s.Inv) (agenda : List Event) : State.Inv { s with agenda := agenda } :=
  ⟨h.cfgOk, h.widths, h.memory, h.ports, h.syncQueues, h.notLive, h.stream, h.counters, h.bytes⟩

theorem State.Inv.extend {s : State} (h : s.Inv) (p : Port) (t : Transaction) : (s.extend p t).Inv :=
  h.setPort fun tr htr => h.ports p tr htr

/-- The payload check of the issue step (R126) is what keeps every outstanding transaction well formed. -/
theorem State.Inv.issue {s t : State} (h : s.Inv) {p : Port} (hs : s.issue p = .next t) : t.Inv := by
  obtain ⟨tr, rest, -, -, hwf, rfl⟩ | rfl := issue_cases hs
  · exact h.setPort fun t' ht' => PortState.busy.inj ht' ▸ hwf
  · exact h

/-- A launch loads streams and an agenda, of which the invariant says nothing. -/
theorem State.Inv.load {s : State} (h : s.Inv) (host prod cons : List Transaction) (agenda : List Event) :
    (s.load host prod cons agenda).Inv := by
  have hports : (s.load host prod cons agenda).portsOk := fun p t ht => h.ports p t (by cases p <;> exact ht)
  exact ⟨h.cfgOk, h.widths, h.memory, hports, h.syncQueues, h.notLive, h.stream, h.counters, h.bytes⟩

theorem inv_resetWith {cfg : Config} (h : cfg.wf) : (State.resetWith cfg).Inv where
  cfgOk := h
  widths := ⟨two_pow_pos _, two_pow_pos _, two_pow_pos _, two_pow_pos _, nofun, nofun⟩
  memory := List.Pairwise.nil
  ports := fun p t ht => by cases p <;> cases ht
  syncQueues := fun _ => ⟨rfl, rfl⟩
  notLive := fun _ => ⟨rfl, rfl, rfl⟩
  stream := rfl
  counters := nofun
  bytes := nofun

/-- What the invariant asks of a live state; the widths follow from the counters. -/
theorem inv_of_live {s : State} (hlive : s.live = true) (hcfg : s.cfg.wf) (hmem : s.storage.wf) (hports : s.portsOk)
    (hsync : s.cfg.crossing = .sync → s.qW = [] ∧ s.qR = []) (hstream : s.streamOk) (hcount : s.countersOk)
    (hbytes : s.bytesOk) : s.Inv where
  cfgOk := hcfg
  widths := widthsOk_of_countersOk hcount
  memory := hmem
  ports := hports
  syncQueues := hsync
  notLive := fun h => by simp [hlive] at h
  stream := hstream
  counters := fun _ => hcount
  bytes := fun _ => hbytes

/-! ## The crossing (R47) -/

theorem live_of_qW {s : State} (h : s.Inv) (hq : s.qW ≠ []) : s.live = true := by
  by_contra hlive
  exact hq (h.notLive (by simpa using hlive)).1

theorem live_of_qR {s : State} (h : s.Inv) (hq : s.qR ≠ []) : s.live = true := by
  by_contra hlive
  exact hq (h.notLive (by simpa using hlive)).2.1

theorem State.Inv.stepXW {s : State} (h : s.Inv) : s.stepXW.Inv := by
  obtain ⟨v, rest, hcross, hq, heq⟩ | ⟨-, heq⟩ := stepXW_cases s
  · have hlive := live_of_qW h (by simp [hq])
    obtain ⟨hK1, hKM, hw, hr, ws, rs, tw, tr, hws, hrs, hqW, hqR, hpW, hpR, hrsR, hRws, hwsW, hWrs⟩ :=
      h.counters hlive
    obtain ⟨a, tw', rfl, rfl, rfl⟩ := List.map_eq_cons_iff.mp (hqW.symm.trans hq)
    obtain ⟨hlt, hle⟩ := publicationsPending_head_le hpW
    rw [heq]
    exact inv_of_live hlive h.cfgOk h.memory h.ports (fun hs => by simp [hcross] at hs) h.stream
      ⟨hK1, hKM, hw, hr, a, rs, tw', tr, rfl, hrs, rfl, hqR, (publicationsPending_deliver hpW).1, hpR,
        hrsR, hRws.trans hlt.le, hle, hWrs⟩ (h.bytes hlive)
  · rwa [heq]

theorem State.Inv.stepXR {s : State} (h : s.Inv) : s.stepXR.Inv := by
  obtain ⟨v, rest, hcross, hq, heq⟩ | ⟨-, heq⟩ := stepXR_cases s
  · have hlive := live_of_qR h (by simp [hq])
    obtain ⟨hK1, hKM, hw, hr, ws, rs, tw, tr, hws, hrs, hqW, hqR, hpW, hpR, hrsR, hRws, hwsW, hWrs⟩ :=
      h.counters hlive
    obtain ⟨a, tr', rfl, rfl, rfl⟩ := List.map_eq_cons_iff.mp (hqR.symm.trans hq)
    obtain ⟨hlt, hle⟩ := publicationsPending_head_le hpR
    rw [heq]
    exact inv_of_live hlive h.cfgOk h.memory h.ports (fun hs => by simp [hcross] at hs) h.stream
      ⟨hK1, hKM, hw, hr, ws, a, tw, tr', hws, rfl, hqW, rfl, hpW, (publicationsPending_deliver hpR).1,
        hle, hRws, hwsW, hWrs.trans (Nat.add_le_add_right hlt.le _)⟩ (h.bytes hlive)
  · rwa [heq]

/-! ## CREATE, RELEASE and hardware reset -/

theorem State.Inv.dropInstance {s : State} (h : s.Inv) : s.dropInstance.Inv where
  cfgOk := h.cfgOk
  widths := ⟨wrWidth_lt _ _, wrWidth_lt _ _, rdWidth_lt _ _, rdWidth_lt _ _, nofun, nofun⟩
  memory := List.Pairwise.nil
  ports := h.ports
  syncQueues := fun _ => ⟨rfl, rfl⟩
  notLive := fun _ => ⟨rfl, rfl, rfl⟩
  stream := h.stream
  counters := nofun
  bytes := nofun

theorem State.Inv.hardwareReset {s : State} (h : s.Inv) : s.hardwareReset.Inv := by
  have hidle : ∀ (u : PortUnit) (p : Port) (t : Transaction),
      PortUnit.state { u with state := .idle } = .busy t → t.wellFormed p = true := nofun
  exact ((h.dropInstance.setPort (hidle s.ctrl .ctrl)).setPort (hidle s.prod .prod)).setPort (hidle s.cons .cons)

/-- The tried exponents only rise. -/
theorem le_leastExponent (fuel k x : Nat) : k ≤ leastExponent fuel k x := by
  induction fuel generalizing k with
  | zero => exact Nat.le_refl k
  | succ fuel ih =>
    unfold leastExponent
    split
    · exact Nat.le_refl k
    · exact Nat.le_of_succ_le (ih (k + 1))

theorem one_le_capRoundLog2 (req : Nat) : 1 ≤ capRoundLog2 req := le_leastExponent req 1 req

/-- A rounded capacity fits the store exactly when its exponent does (R82). -/
theorem capRound_le_storeSize {req : Nat} {s : State} :
    capRound req ≤ s.storeSize ↔ capRoundLog2 req ≤ s.cfg.maxLog2 := Nat.pow_le_pow_iff_right (by decide)

/-- CAP_LOG2 holds every exponent of a legal build: `M <= 23` (R7, R24). -/
theorem toNat_construct_capLog2 {s : State} {k : Nat} (hcfg : s.cfg.wf) (hk : k ≤ s.cfg.maxLog2) :
    (s.construct k).capLog2.toNat = k := by
  have : k < 2 ^ 5 := by have := hcfg.2; omega
  simpa using this

theorem cap_construct {s : State} {k : Nat} (hcfg : s.cfg.wf) (hk : k ≤ s.cfg.maxLog2) :
    (s.construct k).cap = 2 ^ k := congrArg (2 ^ ·) (toNat_construct_capLog2 hcfg hk)

/-- A new buffer has both totals 0, nothing under way and snapshots of that (R81). -/
theorem countersOk_construct {s : State} {k : Nat} (hcfg : s.cfg.wf) (hk1 : 1 ≤ k) (hk : k ≤ s.cfg.maxLog2) :
    (s.construct k).countersOk := by
  have hexp := toNat_construct_capLog2 hcfg hk
  have hwr : wrWidth s.cfg (2 * 2 ^ k) = wrOfTotal (s.construct k).cap 0 := by
    rw [cap_construct hcfg hk, ← wrWidth_wrOfTotal (two_pow_pos k) (Nat.pow_le_pow_right (by decide) hk) 0]
    rfl
  have hrd : 0 = rdOfTotal (s.construct k).cap 0 := by simp [rdOfTotal]
  exact ⟨by omega, hexp.le.trans hk, hwr, hrd, 0, 0, [], [], hwr, hrd, rfl, rfl, publicationsPending_nil.mpr rfl,
    publicationsPending_nil.mpr rfl, Nat.le_refl 0, Nat.le_refl 0, Nat.le_refl 0, Nat.zero_le _⟩

theorem State.Inv.construct {s : State} (h : s.Inv) {k : Nat} (hk1 : 1 ≤ k) (hk : k ≤ s.cfg.maxLog2) :
    (s.construct k).Inv := by
  have hports : (s.construct k).portsOk := by
    intro p t ht
    cases p with
    | ctrl => exact h.ports .ctrl t ht
    | prod => simp at ht
    | cons => simp at ht
  exact inv_of_live rfl h.cfgOk List.Pairwise.nil hports (fun _ => ⟨rfl, rfl⟩) rfl
    (countersOk_construct h.cfgOk hk1 hk) ⟨fun j _ hj => absurd hj (Nat.not_lt_zero j), nofun⟩

end Sys2Proof.Machine
end

section
/-! WRITE and READ keep the invariant (R91, R101): the state after one that moves bytes has its counters at the next
totals and its unread bytes at their offsets. -/

namespace Sys2Proof.Machine

/-! ## A transfer in STORAGE (R40) -/

theorem getElem_transferOffsets {c start n i : Nat} (hi : i < (transferOffsets c start n).length) :
    (transferOffsets c start n)[i] = (start + i) % c := by simp [transferOffsets]

/-- The bytes of a transfer read back at its offsets, which are distinct. -/
theorem read?_writeAll_transfer (m : Memory) {c start n i : Nat} {bytes : List Byte} (hn : n ≤ c)
    (hlen : bytes.length = n) (hi : i < n) :
    (m.writeAll ((transferOffsets c start n).zip bytes)).read? ((start + i) % c) = bytes[i]? := by
  rw [List.getElem?_eq_getElem (hlen ▸ hi)]
  apply Memory.read?_writeAll_listed
  · rw [List.map_fst_zip (by simp [hlen])]
    exact transferOffsets_nodup hn
  · refine List.mem_iff_getElem.mpr ⟨i, by simp [hlen, hi], ?_⟩
    rw [List.getElem_zip, getElem_transferOffsets]

theorem read?_writeAll_of_not_mem (m : Memory) {offs : List Nat} {bytes : List Byte} {off : Nat} (h : off ∉ offs) :
    (m.writeAll (offs.zip bytes)).read? off = m.read? off :=
  Memory.read?_writeAll_other _ _ _ fun cell hcell heq =>
    h (heq ▸ (List.of_mem_zip (a := cell.1) (b := cell.2) hcell).1)

theorem lt_of_mem_writeAll_zip {m : Memory} {offs : List Nat} {bytes : List Byte} {size : Nat}
    (hm : ∀ cell ∈ m, cell.1 < size) (hoffs : ∀ off ∈ offs, off < size) :
    ∀ cell ∈ m.writeAll (offs.zip bytes), cell.1 < size := by
  intro cell hcell
  rcases Memory.mem_writeAll hcell with hzip | hold
  · exact hoffs _ (List.of_mem_zip (a := cell.1) (b := cell.2) hzip).1
  · exact hm cell hold

/-! ## The state after a WRITE that moves bytes -/

namespace State

/-- The bytes a WRITE of `len` accepts: the first of its payload (R91). -/
def writeBytes (s : State) (len : Nat) : List Byte := s.prod.payload.take (s.writeCount len)

/-- The accepted bytes stored, not yet published. -/
def stored (s : State) (len : Nat) : State :=
  { s with
    storage := s.storage.writeAll ((s.writeOffsets len).zip (s.writeBytes len))
    accepted := s.accepted ++ s.writeBytes len }

/-- The state of a WRITE that moves bytes, before its response. -/
def afterWrite (s : State) (len : Nat) : State :=
  (s.stored len).publishWr (foldWr s.cap s.wrPtr (s.writeCount len))

@[simp] theorem afterWrite_cfg (s : State) (len : Nat) : (s.afterWrite len).cfg = s.cfg := publishWr_cfg _ _
@[simp] theorem afterWrite_live (s : State) (len : Nat) : (s.afterWrite len).live = s.live := publishWr_live _ _
@[simp] theorem afterWrite_capLog2 (s : State) (len : Nat) : (s.afterWrite len).capLog2 = s.capLog2 :=
  publishWr_capLog2 _ _
@[simp] theorem afterWrite_cap (s : State) (len : Nat) : (s.afterWrite len).cap = s.cap :=
  congrArg (2 ^ ·.toNat) (afterWrite_capLog2 s len)
@[simp] theorem afterWrite_storage (s : State) (len : Nat) : (s.afterWrite len).storage =
    s.storage.writeAll ((s.writeOffsets len).zip (s.writeBytes len)) := publishWr_storage _ _
@[simp] theorem afterWrite_accepted (s : State) (len : Nat) :
    (s.afterWrite len).accepted = s.accepted ++ s.writeBytes len := publishWr_accepted _ _
@[simp] theorem afterWrite_delivered (s : State) (len : Nat) : (s.afterWrite len).delivered = s.delivered :=
  publishWr_delivered _ _
@[simp] theorem afterWrite_rdPtr (s : State) (len : Nat) : (s.afterWrite len).rdPtr = s.rdPtr := publishWr_rdPtr _ _
@[simp] theorem afterWrite_rdSeen (s : State) (len : Nat) : (s.afterWrite len).rdSeen = s.rdSeen := publishWr_rdSeen _ _
@[simp] theorem afterWrite_qR (s : State) (len : Nat) : (s.afterWrite len).qR = s.qR := publishWr_qR _ _
@[simp] theorem afterWrite_freeStamp (s : State) (len : Nat) : (s.afterWrite len).freeStamp = s.freeStamp :=
  publishWr_freeStamp _ _
@[simp] theorem afterWrite_faultMark (s : State) (len : Nat) : (s.afterWrite len).faultMark = s.faultMark :=
  publishWr_faultMark _ _
@[simp] theorem afterWrite_refusalMark (s : State) (len : Nat) : (s.afterWrite len).refusalMark = s.refusalMark :=
  publishWr_refusalMark _ _
@[simp] theorem afterWrite_totalR (s : State) (len : Nat) : (s.afterWrite len).totalR = s.totalR :=
  congrArg List.length (afterWrite_delivered s len)

@[simp] theorem afterWrite_port (s : State) (len : Nat) (p : Port) : (s.afterWrite len).port p = s.port p := by
  cases p
  · exact publishWr_ctrl _ _
  · exact publishWr_prod _ _
  · exact publishWr_cons _ _

theorem writeBytes_length {s : State} {len : Nat} (hpay : s.prod.payload.length = len) :
    (s.writeBytes len).length = s.writeCount len := by
  have : s.writeCount len ≤ len := Nat.min_le_right _ _
  simp [writeBytes, hpay, this]

theorem afterWrite_totalW {s : State} {len : Nat} (hpay : s.prod.payload.length = len) :
    (s.afterWrite len).totalW = s.totalW + s.writeCount len := by
  simp [totalW, writeBytes_length hpay]

end State

theorem countersOk_afterWrite {s : State} {len : Nat} (h : s.countersOk) (hsync : s.cfg.crossing = .sync → s.qW = [])
    (hpay : s.prod.payload.length = len) (hn : s.writeCount len ≠ 0) : (s.afterWrite len).countersOk := by
  obtain ⟨tw, tr, hws, hrs, hqW, hqR, hpW, hpR, hRsR, hRWs, hWsW, hWRs⟩ := countersOk_totals h
  have hwidth := wrWidth_wrOfTotal (cap_pos s) (cap_le_storeSize h) (s.totalW + s.writeCount len)
  have hroom := totalW_add_writeCount_le h len
  obtain ⟨hK1, hKM, hw, hr, -⟩ := h
  have hpub : s.afterWrite len = (s.stored len).publishWr (wrOfTotal s.cap (s.totalW + s.writeCount len)) := by
    rw [State.afterWrite, hw, foldWr_wrOfTotal _ (cap_pos s) (writeCount_le_cap s len)]
  have hwr : (s.afterWrite len).wrPtr = wrOfTotal s.cap (s.totalW + s.writeCount len) := by
    rw [hpub, State.publishWr_wrPtr]
    exact hwidth
  obtain ⟨ws, tw', hws', hqW', hpW', hle⟩ := publishWr_publications (s := s.stored len) hws hqW hpW hsync
    (show s.totalW < s.totalW + s.writeCount len by omega) hwidth
  rw [← hpub] at hws' hqW'
  simp only [State.countersOk, State.afterWrite_capLog2, State.afterWrite_cfg, State.afterWrite_cap,
    State.afterWrite_rdPtr, State.afterWrite_rdSeen, State.afterWrite_qR, State.afterWrite_totalR,
    State.afterWrite_totalW hpay]
  exact ⟨hK1, hKM, hwr, hr, ws, s.totalRs, tw', tr, hws', hrs, hqW', hqR, hpW', hpR, hRsR, hRWs.trans hle,
    publicationsPending_le hpW', hroom⟩

/-- An unread byte keeps its offset, since a WRITE stores outside the consumer's part; the accepted ones stand at theirs
(R32, R96). -/
theorem bytesOk_afterWrite {s : State} {len : Nat} (h : s.countersOk) (hbytes : s.bytesOk)
    (hpay : s.prod.payload.length = len) : (s.afterWrite len).bytesOk := by
  have hroom := totalW_add_writeCount_le h len
  obtain ⟨-, -, -, -, -, -, -, -, hRsR, -, -, -⟩ := countersOk_totals h
  obtain ⟨hunread, hcells⟩ := hbytes
  simp only [State.bytesOk, State.afterWrite_totalR, State.afterWrite_totalW hpay, State.afterWrite_cap,
    State.afterWrite_storage, State.afterWrite_accepted, writeOffsets_eq_totalW h]
  refine ⟨fun j hR hj => ?_, lt_of_mem_writeAll_zip hcells fun off hoff => transferOffsets_lt (cap_pos s) hoff⟩
  by_cases hold : j < s.totalW
  · rw [List.getElem?_append_left hold, ← hunread j hR hold]
    refine read?_writeAll_of_not_mem _ fun hmem => ?_
    obtain ⟨i, hi, heq⟩ := mem_transferOffsets.mp hmem
    exact offset_ne (by omega) (by omega) heq
  · obtain ⟨i, rfl⟩ := Nat.exists_eq_add_of_le (Nat.le_of_not_lt hold)
    have hnew : (s.accepted ++ s.writeBytes len)[s.totalW + i]? = (s.writeBytes len)[i]? := by
      simp [State.totalW, List.getElem?_append_right]
    rw [hnew, read?_writeAll_transfer _ (writeCount_le_cap s len) (State.writeBytes_length hpay) (by omega)]

theorem State.Inv.afterWrite {s : State} {len : Nat} (h : s.Inv) (hlive : s.live = true)
    (hpay : s.prod.payload.length = len) (hn : s.writeCount len ≠ 0) : (s.afterWrite len).Inv := by
  have hcount := h.counters hlive
  refine inv_of_live (by simpa using hlive) (by simpa using h.cfgOk) ?_
    (portsOk_of_port_eq h.ports (State.afterWrite_port s len)) ?_ ?_
    (countersOk_afterWrite hcount (fun hs => (h.syncQueues hs).1) hpay hn)
    (bytesOk_afterWrite hcount (h.bytes hlive) hpay)
  · rw [State.afterWrite_storage]
    exact Memory.writeAll_wf h.memory _
  · intro hs
    rw [State.afterWrite_cfg] at hs
    obtain ⟨hqW, hqR⟩ := h.syncQueues hs
    exact ⟨(publishWr_qW_of_sync (s := s.stored len) _ hs).trans hqW, by simpa using hqR⟩
  · obtain ⟨-, -, -, -, -, -, -, -, -, hRWs, hWsW, -⟩ := countersOk_totals hcount
    have hle : s.totalR ≤ s.accepted.length := hRWs.trans hWsW
    rw [State.streamOk, State.afterWrite_delivered, State.afterWrite_totalR, State.afterWrite_accepted,
      List.take_append_of_le_length hle]
    exact h.stream

/-- A WRITE moves at least one byte when there is space and it offers one (R91). -/
theorem writeCount_ne_zero {s : State} {len : Nat} (hlen : len ≠ 0) (hfree : s.freeProducer ≠ 0) :
    s.writeCount len ≠ 0 := by
  unfold State.writeCount
  omega

theorem State.Inv.execWrite {s t : State} {len : Nat} (h : s.Inv) (hs : execWrite len s = .next t) : t.Inv := by
  obtain ⟨hpay, hlive, ⟨-, rfl⟩ | ⟨-, -, -, rfl⟩ | ⟨hlen, -, hfree, -, rfl⟩⟩ := execWrite_cases hs
  · exact h.respond _ _ _ _
  · exact h.respond _ _ _ _
  · exact (h.afterWrite hlive hpay (writeCount_ne_zero hlen hfree)).respond _ _ _ _

/-! ## The state after a READ that moves bytes -/

namespace State

/-- The bytes a READ of `len` takes (R101). -/
def readBytes (s : State) (len : Nat) : List Byte := (s.readOffsets len).map (s.storage.byteAt s.freeStamp)

/-- The bytes delivered, their place not yet given back. -/
def taken (s : State) (len : Nat) : State := { s with delivered := s.delivered ++ s.readBytes len }

/-- The state of a READ that moves bytes, before its response. -/
def afterRead (s : State) (len : Nat) : State :=
  (s.taken len).publishRd (foldRd s.cap s.rdPtr (s.readCount len))

@[simp] theorem afterRead_cfg (s : State) (len : Nat) : (s.afterRead len).cfg = s.cfg := publishRd_cfg _ _
@[simp] theorem afterRead_live (s : State) (len : Nat) : (s.afterRead len).live = s.live := publishRd_live _ _
@[simp] theorem afterRead_capLog2 (s : State) (len : Nat) : (s.afterRead len).capLog2 = s.capLog2 :=
  publishRd_capLog2 _ _
@[simp] theorem afterRead_cap (s : State) (len : Nat) : (s.afterRead len).cap = s.cap :=
  congrArg (2 ^ ·.toNat) (afterRead_capLog2 s len)
@[simp] theorem afterRead_storage (s : State) (len : Nat) : (s.afterRead len).storage = s.storage :=
  publishRd_storage _ _
@[simp] theorem afterRead_accepted (s : State) (len : Nat) : (s.afterRead len).accepted = s.accepted :=
  publishRd_accepted _ _
@[simp] theorem afterRead_delivered (s : State) (len : Nat) :
    (s.afterRead len).delivered = s.delivered ++ s.readBytes len := publishRd_delivered _ _
@[simp] theorem afterRead_wrPtr (s : State) (len : Nat) : (s.afterRead len).wrPtr = s.wrPtr := publishRd_wrPtr _ _
@[simp] theorem afterRead_wrSeen (s : State) (len : Nat) : (s.afterRead len).wrSeen = s.wrSeen := publishRd_wrSeen _ _
@[simp] theorem afterRead_qW (s : State) (len : Nat) : (s.afterRead len).qW = s.qW := publishRd_qW _ _
@[simp] theorem afterRead_freeStamp (s : State) (len : Nat) : (s.afterRead len).freeStamp = s.freeStamp :=
  publishRd_freeStamp _ _
@[simp] theorem afterRead_faultMark (s : State) (len : Nat) : (s.afterRead len).faultMark = s.faultMark :=
  publishRd_faultMark _ _
@[simp] theorem afterRead_refusalMark (s : State) (len : Nat) : (s.afterRead len).refusalMark = s.refusalMark :=
  publishRd_refusalMark _ _
@[simp] theorem afterRead_totalW (s : State) (len : Nat) : (s.afterRead len).totalW = s.totalW :=
  congrArg List.length (afterRead_accepted s len)

@[simp] theorem afterRead_port (s : State) (len : Nat) (p : Port) : (s.afterRead len).port p = s.port p := by
  cases p
  · exact publishRd_ctrl _ _
  · exact publishRd_prod _ _
  · exact publishRd_cons _ _

@[simp] theorem readBytes_length (s : State) (len : Nat) : (s.readBytes len).length = s.readCount len := by
  simp [readBytes, readOffsets]

@[simp] theorem afterRead_totalR (s : State) (len : Nat) :
    (s.afterRead len).totalR = s.totalR + s.readCount len := by
  simp [totalR]

end State

theorem countersOk_afterRead {s : State} {len : Nat} (h : s.countersOk) (hsync : s.cfg.crossing = .sync → s.qR = [])
    (hn : s.readCount len ≠ 0) : (s.afterRead len).countersOk := by
  obtain ⟨tw, tr, hws, hrs, hqW, hqR, hpW, hpR, hRsR, hRWs, hWsW, hWRs⟩ := countersOk_totals h
  have hwidth := rdWidth_rdOfTotal (cap_pos s) (cap_le_storeSize h) (s.totalR + s.readCount len)
  have hmoved := totalR_add_readCount_le s len
  have hcap := readCount_le_cap h len
  obtain ⟨hK1, hKM, hw, hr, -⟩ := h
  have hpub : s.afterRead len = (s.taken len).publishRd (rdOfTotal s.cap (s.totalR + s.readCount len)) := by
    rw [State.afterRead, hr, foldRd_rdOfTotal _ (cap_pos s) hcap]
  have hrd : (s.afterRead len).rdPtr = rdOfTotal s.cap (s.totalR + s.readCount len) := by
    rw [hpub, State.publishRd_rdPtr]
    exact hwidth
  obtain ⟨rs, tr', hrs', hqR', hpR', hle⟩ := publishRd_publications (s := s.taken len) hrs hqR hpR hsync
    (show s.totalR < s.totalR + s.readCount len by omega) hwidth
  rw [← hpub] at hrs' hqR'
  simp only [State.countersOk, State.afterRead_capLog2, State.afterRead_cfg, State.afterRead_cap,
    State.afterRead_wrPtr, State.afterRead_wrSeen, State.afterRead_qW, State.afterRead_totalR, State.afterRead_totalW]
  exact ⟨hK1, hKM, hw, hrd, s.totalWs, rs, tw, tr', hws, hrs', hqW, hqR', hpW, hpR', publicationsPending_le hpR',
    hmoved, hWsW, hWRs.trans (Nat.add_le_add_right hle _)⟩

/-- A READ takes the next accepted bytes: each stands unread at the offset it is read from (R105). -/
theorem readBytes_eq_take_drop {s : State} (h : s.countersOk) (hbytes : s.bytesOk) (len : Nat) :
    s.readBytes len = (s.accepted.drop s.totalR).take (s.readCount len) := by
  obtain ⟨-, -, -, -, -, -, -, -, -, -, hWsW, -⟩ := countersOk_totals h
  have hle : s.totalR + s.readCount len ≤ s.accepted.length := (totalR_add_readCount_le s len).trans hWsW
  refine List.ext_getElem (by simp; omega) fun i hi _ => ?_
  have hi : i < s.readCount len := by simpa using hi
  have hread := hbytes.1 (s.totalR + i) (Nat.le_add_right _ i) (show _ < s.accepted.length by omega)
  rw [List.getElem?_eq_getElem (by omega)] at hread
  simp [State.readBytes, readOffsets_eq_totalR h, getElem_transferOffsets, Memory.byteAt_of_read? hread]

theorem State.Inv.afterRead {s : State} {len : Nat} (h : s.Inv) (hlive : s.live = true) (hn : s.readCount len ≠ 0) :
    (s.afterRead len).Inv := by
  have hcount := h.counters hlive
  have hbytes := h.bytes hlive
  refine inv_of_live (by simpa using hlive) (by simpa using h.cfgOk) (by simpa using h.memory)
    (portsOk_of_port_eq h.ports (State.afterRead_port s len)) ?_ ?_
    (countersOk_afterRead hcount (fun hs => (h.syncQueues hs).2) hn) ?_
  · intro hs
    rw [State.afterRead_cfg] at hs
    obtain ⟨hqW, hqR⟩ := h.syncQueues hs
    exact ⟨by simpa using hqW, (publishRd_qR_of_sync (s := s.taken len) _ hs).trans hqR⟩
  · rw [State.streamOk, State.afterRead_delivered, State.afterRead_totalR, State.afterRead_accepted, List.take_add,
      readBytes_eq_take_drop hcount hbytes, ← h.stream]
  · simp only [State.bytesOk, State.afterRead_totalR, State.afterRead_totalW, State.afterRead_cap,
      State.afterRead_storage, State.afterRead_accepted]
    exact ⟨fun j hR hW => hbytes.1 j (by omega) hW, hbytes.2⟩

/-- A READ moves at least one byte when one is seen and it asks for one (R101). -/
theorem readCount_ne_zero {s : State} {len : Nat} (hlen : len ≠ 0) (hocc : s.occConsumer ≠ 0) :
    s.readCount len ≠ 0 := by
  unfold State.readCount
  omega

theorem State.Inv.execRead {s t : State} {len : Nat} (h : s.Inv) (hs : execRead len s = .next t) : t.Inv := by
  obtain ⟨hlive, ⟨-, rfl⟩ | ⟨-, -, rfl⟩ | ⟨hlen, -, hocc, -, rfl⟩⟩ := execRead_cases hs
  · exact h.respond _ _ _ _
  · exact h.respond _ _ _ _
  · exact (h.afterRead hlive (readCount_ne_zero hlen hocc)).respond _ _ _ _

end Sys2Proof.Machine
end

section
/-! Every event keeps the invariant, so every step does (O58), and so does every run from reset (O59). -/

namespace Sys2Proof.Machine

theorem State.Inv.execCreate {s t : State} {req : Nat} (h : s.Inv) (hs : execCreate req s = .next t) : t.Inv := by
  obtain ⟨-, ⟨-, rfl⟩ | ⟨hfit, rfl⟩⟩ := execCreate_cases hs
  · exact h.respond _ _ _ _
  · exact (h.construct (one_le_capRoundLog2 req) (capRound_le_storeSize.mp hfit)).respond _ _ _ _

theorem State.Inv.execRelease {s t : State} (h : s.Inv) (hs : execRelease s = .next t) : t.Inv := by
  obtain ⟨-, -, -, rfl⟩ := execRelease_cases hs
  exact h.dropInstance.respond _ _ _ _

theorem State.Inv.execCapq {s t : State} (h : s.Inv) (hs : execCapq s = .next t) : t.Inv := by
  obtain ⟨-, rfl⟩ := execCapq_cases hs
  exact h.respond _ _ _ _

theorem State.Inv.exec {s t : State} {i : Instr} (h : s.Inv) (hs : exec i s = .next t) : t.Inv := by
  cases i with
  | create req => exact h.execCreate hs
  | release => exact h.execRelease hs
  | capq => exact h.execCapq hs
  | write len => exact h.execWrite hs
  | read len => exact h.execRead hs

theorem State.Inv.executePort {s t : State} {p : Port} (h : s.Inv) (hs : s.executePort p = .next t) : t.Inv := by
  obtain ⟨-, rfl⟩ | ⟨-, -, -, -, rfl⟩ | ⟨-, i, -, -, hexec⟩ := executePort_cases hs
  · exact h
  · exact h.respond _ _ _ _
  · exact h.exec hexec

theorem State.Inv.agentStep {s t : State} {a : Agent} (h : s.Inv) (hs : s.agentStep a = .next t) : t.Inv := by
  cases a with
  | host => exact h.issue hs
  | prod => exact h.issue hs
  | cons => exact h.issue hs
  | xw => exact Host.Outcome.next.inj hs ▸ h.stepXW
  | xr => exact Host.Outcome.next.inj hs ▸ h.stepXR

theorem State.Inv.runEvent {s t : State} {e : Event} (h : s.Inv) (hs : s.runEvent e = .next t) : t.Inv := by
  obtain ⟨a, -, ha⟩ | ⟨p, -, hp⟩ | ⟨p, tr, -, rfl⟩ | ⟨-, rfl⟩ := runEvent_cases hs
  · exact h.agentStep ha
  · exact h.executePort hp
  · exact h.extend p tr
  · exact h.hardwareReset

theorem State.Inv.step {s t : State} (h : s.Inv) (hs : step s = .next t) : t.Inv := by
  obtain ⟨-, -, ⟨-, rfl⟩ | ⟨e, rest, -, he⟩⟩ := step_cases hs
  · exact h
  · exact (h.withAgenda rest).runEvent he

/-- Settles O58, event by event: each update keeps the invariant, a WRITE and a READ with their totals advanced. -/
theorem everyStepKeepsTheInvariant : Obligations.EveryStepKeepsTheInvariant :=
  fun _ _ h hs => h.step hs

/-! ## Runs -/

theorem run_succ_cases {M : Host.Core} {k : Nat} {s t : M.State} (hrun : M.run (k + 1) s = .next t) :
    ∃ u, M.step s = .next u ∧ M.run k u = .next t := by
  unfold Host.Core.run at hrun
  split at hrun
  · rename_i u hu
    exact ⟨u, hu, hrun⟩
  · cases hrun
  · cases hrun

/-- What every step keeps, a run keeps. -/
theorem run_preserves {P : State → Prop} (hstep : ∀ s t, P s → step s = .next t → P t) {k : Nat} {s t : State}
    (hs : P s) (hrun : core.run k s = .next t) : P t := by
  induction k generalizing s with
  | zero => exact Host.Outcome.next.inj hrun ▸ hs
  | succ k ih =>
    obtain ⟨u, hu, hrest⟩ := run_succ_cases hrun
    exact ih (hstep s u hs hu) hrest

/-- Every state on a run of a legal build from reset, with any streams and any agenda, meets the invariant. -/
theorem inv_of_run {cfg : Config} (hcfg : cfg.wf) {host prod cons : List Transaction} {agenda : List Event} {k : Nat}
    {s : State} (hrun : core.run k ((State.resetWith cfg).load host prod cons agenda) = .next s) : s.Inv :=
  run_preserves (fun _ _ h hs => h.step hs) ((inv_resetWith hcfg).load host prod cons agenda) hrun

theorem totals_zero_of_create {req : Nat} {s t : State} (hs : exec (.create req) s = .next t) (hlive : t.live = true) :
    t.totalW = 0 ∧ t.totalR = 0 := by
  obtain ⟨hdead, ⟨-, rfl⟩ | ⟨-, rfl⟩⟩ := execCreate_cases hs
  · simp [hdead] at hlive
  · exact ⟨rfl, rfl⟩

/-- Settles O59: CREATE restarts the ghosts, and the invariant, which holds on every run, folds them. -/
theorem countersAreTheFoldedTotalsOnEveryRun : Obligations.CountersAreTheFoldedTotalsOnEveryRun := by
  refine ⟨fun req s t hs hlive => totals_zero_of_create hs hlive, ?_⟩
  intro cfg host prod cons agenda k s hcfg hrun hlive
  obtain ⟨-, -, hw, hr, -⟩ := (inv_of_run hcfg hrun).counters hlive
  exact ⟨hw, hr⟩

end Sys2Proof.Machine
end

section
/-! What a step can do to the live buffer and to the ports (R23, R36, R66): it leaves the buffer as it is, or its event
is one of three that begin or end one; and a command is answered on its own port. -/

namespace Sys2Proof.Machine

/-! ## Steps that leave the buffer as it is -/

/-- `t` has the buffer of `s`: what stays fixed while one lives (R36), with STORAGE still in its canonical form. -/
structure State.SameInstance (s t : State) : Prop where
  cfg : t.cfg = s.cfg
  live : t.live = s.live
  capLog2 : t.capLog2 = s.capLog2
  faultMark : t.faultMark = s.faultMark
  refusalMark : t.refusalMark = s.refusalMark
  freeStamp : t.freeStamp = s.freeStamp
  storageWf : s.storage.wf → t.storage.wf

namespace State.SameInstance

theorem refl (s : State) : s.SameInstance s := ⟨rfl, rfl, rfl, rfl, rfl, rfl, id⟩

theorem trans {s t u : State} (h : s.SameInstance t) (h' : t.SameInstance u) : s.SameInstance u :=
  ⟨h'.cfg.trans h.cfg, h'.live.trans h.live, h'.capLog2.trans h.capLog2, h'.faultMark.trans h.faultMark,
    h'.refusalMark.trans h.refusalMark, h'.freeStamp.trans h.freeStamp, fun hwf => h'.storageWf (h.storageWf hwf)⟩

theorem setPort (s : State) (p : Port) (u : PortUnit) : s.SameInstance (s.setPort p u) := by
  constructor <;> simp

theorem respond (s : State) (p : Port) (st : Status) (v : Nat) (d : List Byte) : s.SameInstance (s.respond p st v d) :=
  setPort s p _

theorem stepXW (s : State) : s.SameInstance s.stepXW := by
  constructor <;> simp

theorem stepXR (s : State) : s.SameInstance s.stepXR := by
  constructor <;> simp

theorem afterWrite (s : State) (len : Nat) : s.SameInstance (s.afterWrite len) :=
  ⟨by simp, by simp, by simp, by simp, by simp, by simp,
    fun hwf => by simpa using Memory.writeAll_wf hwf _⟩

theorem afterRead (s : State) (len : Nat) : s.SameInstance (s.afterRead len) := by
  constructor <;> simp

theorem issue {s t : State} {p : Port} (hs : s.issue p = .next t) : s.SameInstance t := by
  obtain ⟨tr, rest, -, -, -, rfl⟩ | rfl := issue_cases hs
  · exact setPort s p _
  · exact refl t

theorem agentStep {s t : State} {a : Agent} (hs : s.agentStep a = .next t) : s.SameInstance t := by
  cases a with
  | host => exact issue hs
  | prod => exact issue hs
  | cons => exact issue hs
  | xw => exact Host.Outcome.next.inj hs ▸ stepXW s
  | xr => exact Host.Outcome.next.inj hs ▸ stepXR s

end State.SameInstance

/-! ## What a command can do -/

/-- A command is answered on its port in the buffer it found, with every port as it was until then; or it is a CREATE
that constructs a buffer (R81), or a RELEASE that ends one (R110). -/
theorem exec_cases {i : Instr} {s t : State} (hs : exec i s = .next t) :
    (∃ u st v d, s.SameInstance u ∧ (∀ p, u.port p = s.port p) ∧ t = u.respond i.port st v d) ∨
    (∃ req, i = .create req ∧ s.live = false ∧ capRound req ≤ s.storeSize ∧
      t = (s.construct (capRoundLog2 req)).respond .ctrl .ok (capRound req) []) ∨
    (i = .release ∧ s.live = true ∧ s.prod.state = .idle ∧ s.cons.state = .idle ∧
      t = s.dropInstance.respond .ctrl .ok 0 []) := by
  have answered : ∀ (p : Port) st v d, t = s.respond p st v d → ∃ u st v d,
      s.SameInstance u ∧ (∀ q, u.port q = s.port q) ∧ t = u.respond p st v d :=
    fun p st v d ht => ⟨s, st, v, d, .refl s, fun _ => rfl, ht⟩
  cases i with
  | create req =>
    obtain ⟨hdead, ⟨-, ht⟩ | ⟨hfit, ht⟩⟩ := execCreate_cases hs
    · exact .inl (answered _ _ _ _ ht)
    · exact .inr (.inl ⟨req, rfl, hdead, hfit, ht⟩)
  | release =>
    obtain ⟨hlive, hprod, hcons, ht⟩ := execRelease_cases hs
    exact .inr (.inr ⟨rfl, hlive, hprod, hcons, ht⟩)
  | capq => exact .inl (answered _ _ _ _ (execCapq_cases hs).2)
  | write len =>
    obtain ⟨-, -, ⟨-, ht⟩ | ⟨-, -, -, ht⟩ | ⟨-, -, -, -, ht⟩⟩ := execWrite_cases hs
    · exact .inl (answered _ _ _ _ ht)
    · exact .inl (answered _ _ _ _ ht)
    · exact .inl ⟨s.afterWrite len, _, _, _, .afterWrite s len, State.afterWrite_port s len, ht⟩
  | read len =>
    obtain ⟨-, ⟨-, ht⟩ | ⟨-, -, ht⟩ | ⟨-, -, -, -, ht⟩⟩ := execRead_cases hs
    · exact .inl (answered _ _ _ _ ht)
    · exact .inl (answered _ _ _ _ ht)
    · exact .inl ⟨s.afterRead len, _, _, _, .afterRead s len, State.afterRead_port s len, ht⟩

theorem port_of_decode {p : Port} {w : Word} {i : Instr} (h : decode p w = .ok i) : i.port = p := by
  unfold decode at h
  split at h
  · cases h
  · split at h
    · rename_i hport
      exact Except.ok.inj h ▸ hport.symm
    · cases h

/-! ## What a step can do to the buffer -/

/-- The events of `s` that begin or end a buffer, with the state `t` they leave. -/
inductive LifecycleEvent (s t : State) : Event → Prop where
  /-- A CREATE on CTRL whose rounded capacity fits the store (R81). -/
  | create {tr : Transaction} {req : Nat} (dead : s.live = false) (busy : s.ctrl.state = .busy tr)
      (word : decode .ctrl tr.word = .ok (.create req)) (fits : capRound req ≤ 2 ^ s.cfg.maxLog2)
      (empty : t.storage = []) : LifecycleEvent s t (.execute .ctrl)
  /-- A RELEASE on CTRL while PROD and CONS are IDLE (R110). -/
  | release {tr : Transaction} (live : s.live = true) (prod : s.prod.state = .idle) (cons : s.cons.state = .idle)
      (busy : s.ctrl.state = .busy tr) (word : decode .ctrl tr.word = .ok .release)
      (ended : t.live = false) (empty : t.storage = []) : LifecycleEvent s t (.execute .ctrl)
  /-- Hardware reset (R140). -/
  | reset (ended : t.live = false) (empty : t.storage = []) : LifecycleEvent s t .hardwareReset

theorem LifecycleEvent.storage_empty {s t : State} {e : Event} (h : LifecycleEvent s t e) : t.storage = [] := by
  cases h <;> assumption

/-- While a buffer lives on, no such event happens (R36). -/
theorem LifecycleEvent.not_live {s t : State} {e : Event} (h : LifecycleEvent s t e) (hs : s.live = true) :
    t.live = false := by
  cases h with
  | create dead => exact absurd hs (by simp [dead])
  | release _ _ _ _ _ ended => exact ended
  | reset ended => exact ended

theorem executePort_instance {s t : State} {p : Port} (hs : s.executePort p = .next t) :
    s.SameInstance t ∨ LifecycleEvent s t (.execute p) := by
  obtain ⟨-, rfl⟩ | ⟨-, -, -, -, rfl⟩ | ⟨tr, i, hbusy, hdec, hexec⟩ := executePort_cases hs
  · exact .inl (.refl t)
  · exact .inl (.respond _ _ _ _ _)
  · obtain rfl := port_of_decode hdec
    obtain ⟨u, st, v, d, hsame, -, rfl⟩ | ⟨req, rfl, hdead, hfit, rfl⟩ | ⟨rfl, hlive, hprod, hcons, rfl⟩ :=
      exec_cases hexec
    · exact .inl (hsame.trans (.respond _ _ _ _ _))
    · exact .inr (.create hdead hbusy hdec hfit rfl)
    · exact .inr (.release hlive hprod hcons hbusy hdec rfl rfl)

theorem runEvent_instance {s t : State} {e : Event} (hs : s.runEvent e = .next t) :
    s.SameInstance t ∨ LifecycleEvent s t e := by
  obtain ⟨a, rfl, ha⟩ | ⟨p, rfl, hp⟩ | ⟨p, tr, rfl, rfl⟩ | ⟨rfl, rfl⟩ := runEvent_cases hs
  · exact .inl (.agentStep ha)
  · exact executePort_instance hp
  · exact .inl (.setPort _ _ _)
  · exact .inr (.reset rfl rfl)

/-- A lifecycle event does not look at the agenda. -/
theorem LifecycleEvent.of_withAgenda {s t : State} {agenda : List Event} {e : Event}
    (h : LifecycleEvent { s with agenda := agenda } t e) : LifecycleEvent s t e := by
  cases h with
  | create dead busy word fits empty => exact .create dead busy word fits empty
  | release live prod cons busy word ended empty => exact .release live prod cons busy word ended empty
  | reset ended empty => exact .reset ended empty

/-- A step keeps the buffer, or its event begins or ends one. -/
theorem step_instance {s t : State} (hs : step s = .next t) :
    s.SameInstance t ∨ ∃ e rest, s.agenda = e :: rest ∧ LifecycleEvent s t e := by
  obtain ⟨-, -, ⟨-, rfl⟩ | ⟨e, rest, hag, he⟩⟩ := step_cases hs
  · exact .inl (.refl t)
  · rcases runEvent_instance he with hsame | hlife
    · exact .inl ⟨hsame.cfg, hsame.live, hsame.capLog2, hsame.faultMark, hsame.refusalMark, hsame.freeStamp,
        hsame.storageWf⟩
    · exact .inr ⟨e, rest, hag, hlife.of_withAgenda⟩

/-- Settles O45: a step that keeps the buffer keeps the form of its list, and the others leave the list empty. -/
theorem stepKeepsStorageCanonical : Obligations.StepKeepsStorageCanonical := by
  intro s t hwf hs
  rcases step_instance hs with hsame | ⟨e, rest, -, hlife⟩
  · exact hsame.storageWf hwf
  · rw [hlife.storage_empty]
    exact List.Pairwise.nil

/-- Settles O46: LIVE changes at a lifecycle event alone. -/
theorem onlyLifecycleCommandsChangeLive : Obligations.OnlyLifecycleCommandsChangeLive := by
  intro s t hs hne
  rcases step_instance hs with hsame | ⟨e, rest, hag, hlife⟩
  · exact absurd hsame.live.symm hne
  · refine ⟨e, rest, hag, ?_⟩
    cases hlife with
    | create dead busy word fits => exact .inl ⟨dead, rfl, _, _, busy, word, fits⟩
    | release live prod cons busy word => exact .inr (.inr ⟨live, rfl, prod, cons, _, busy, word⟩)
    | reset ended => exact .inr (.inl ⟨by simpa [ended] using hne, rfl⟩)

/-- Settles O47: a step from a live state to a live one keeps the buffer. -/
theorem capacityIsImmutableWhileLive : Obligations.CapacityIsImmutableWhileLive := by
  intro s t hlive hs hlive'
  rcases step_instance hs with hsame | ⟨e, rest, -, hlife⟩
  · exact ⟨hsame.capLog2, hsame.cfg, hsame.faultMark, hsame.refusalMark, hsame.freeStamp⟩
  · exact absurd hlive' (by simp [hlife.not_live hlive])

/-! ## The response to a command -/

/-- The event at the head of the agenda is the one a step runs. -/
theorem runEvent_of_step {s t : State} {e : Event} {rest : List Event} (hag : s.agenda = e :: rest)
    (hs : step s = .next t) : State.runEvent { s with agenda := rest } e = .next t := by
  obtain ⟨hf, hr, -⟩ := step_cases hs
  rwa [step_event hf hr hag] at hs

/-- What a port other than the executed one becomes: withdrawn where the step began a buffer (log entry 14). -/
def portAfter (s t : State) (q : Port) : PortUnit :=
  if s.live = false ∧ t.live = true then (s.port q).withdrawn else s.port q

theorem portAfter_of_live_eq {s t : State} (h : t.live = s.live) (q : Port) : portAfter s t q = s.port q :=
  if_neg fun ⟨hs, ht⟩ => by simp [h, hs] at ht

/-- Executing a BUSY port answers there and leaves the other ports, a CREATE withdrawing their commands (R66, R33). -/
theorem executePort_responds {s t : State} {p : Port} {tr : Transaction} (hbusy : (s.port p).state = .busy tr)
    (hs : s.executePort p = .next t) :
    ∃ st v d, t.port p = (s.port p).answer st v d ∧ ∀ q, q ≠ p → t.port q = portAfter s t q := by
  obtain ⟨hidle, -⟩ | ⟨-, -, -, -, rfl⟩ | ⟨tr', i, -, hdec, hexec⟩ := executePort_cases hs
  · exact absurd (hidle.symm.trans hbusy) nofun
  · refine ⟨.illegal, 0, [], State.port_respond_same _ _ _ _ _, fun q hq => ?_⟩
    rw [portAfter_of_live_eq (State.respond_live _ _ _ _ _), State.port_respond_other _ _ _ _ _ _ hq]
  · obtain rfl := port_of_decode hdec
    obtain ⟨u, st, v, d, hsame, hport, rfl⟩ | ⟨req, rfl, hdead, -, rfl⟩ | ⟨rfl, hlive, -, -, rfl⟩ :=
      exec_cases hexec
    · refine ⟨st, v, d, by rw [State.port_respond_same, hport], fun q hq => ?_⟩
      rw [portAfter_of_live_eq ((State.respond_live _ _ _ _ _).trans hsame.live),
        State.port_respond_other _ _ _ _ _ _ hq, hport]
    · refine ⟨.ok, capRound req, [], rfl, fun q hq => ?_⟩
      rw [portAfter, if_pos ⟨hdead, rfl⟩]
      cases q with
      | ctrl => exact absurd rfl hq
      | prod => rfl
      | cons => rfl
    · refine ⟨.ok, 0, [], rfl, fun q hq => ?_⟩
      rw [portAfter, if_neg (fun h => by simp [hlive] at h)]
      cases q with
      | ctrl => exact absurd rfl hq
      | prod => rfl
      | cons => rfl

theorem status_code_le (st : Status) : st.code.toNat ≤ 3 := by cases st <;> decide

/-- Settles O12: the port is answered with a response word of format S, and the ports beside it are framed. -/
theorem everyCommandGetsOneResponseOnItsPort : Obligations.EveryCommandGetsOneResponseOnItsPort := by
  intro s t p rest tr hag hbusy hs
  obtain ⟨st, v, d, hport, hothers⟩ :=
    executePort_responds (s := { s with agenda := rest }) hbusy (runEvent_of_step hag hs)
  refine ⟨⟨responseWord st v, d⟩, hport, responseWord_reserved st v, ?_, hothers⟩
  rw [responseWord_status]
  exact status_code_le st

end Sys2Proof.Machine
end

section
/-! What each command answers in the cases that end a run, and CREATE, RELEASE and CAPQ in every case (R124, R126): one
equation per case. From them, which faults an invariant state can raise (R30), and what a dead state hides (R38). -/

namespace Sys2Proof.Machine

variable {s : State} {req len : Nat}

/-! ## One equation per case -/

theorem execCreate_of_live (hlive : s.live = true) :
    execCreate req s = .fault (.createWhileLive .ctrl (encode (.create req))) := by
  simp [execCreate, hlive, raise, Instr.port]

theorem execCreate_of_large (hdead : s.live = false) (hbig : s.storeSize < capRound req) :
    execCreate req s = .next (s.respond .ctrl .allocFail 0 []) := by
  simp [execCreate, hdead, hbig]

theorem execCreate_of_fits (hdead : s.live = false) (hfit : capRound req ≤ s.storeSize) :
    execCreate req s = .next ((s.construct (capRoundLog2 req)).respond .ctrl .ok (capRound req) []) := by
  simp [execCreate, hdead, Nat.not_lt.mpr hfit]

theorem execRelease_of_not_live (hdead : s.live = false) :
    execRelease s = .fault (.notLive .ctrl (encode .release)) := by
  simp [execRelease, hdead, raise, Instr.port]

theorem execRelease_of_busy (hlive : s.live = true) (hbusy : s.prod.state ≠ .idle ∨ s.cons.state ≠ .idle) :
    execRelease s = .fault (.releaseWhileBusy .ctrl (encode .release)) := by
  unfold execRelease
  rw [if_neg (by simp [hlive]), if_pos hbusy]
  rfl

theorem execRelease_of_idle (hlive : s.live = true) (hprod : s.prod.state = .idle) (hcons : s.cons.state = .idle) :
    execRelease s = .next (s.dropInstance.respond .ctrl .ok 0 []) := by
  simp [execRelease, hlive, hprod, hcons]

theorem execCapq_of_live (hlive : s.live = true) : execCapq s = .next (s.respond .ctrl .ok s.cap []) := by
  simp [execCapq, hlive]

theorem execCapq_of_not_live (hdead : s.live = false) : execCapq s = .fault (.notLive .ctrl (encode .capq)) := by
  simp [execCapq, hdead, raise, Instr.port]

theorem execWrite_of_payload_ne (hpay : s.prod.payload.length ≠ len) :
    execWrite len s = .refused (.payloadMismatch .prod (encode (.write len))) := if_pos hpay

theorem execWrite_of_not_live (hpay : s.prod.payload.length = len) (hdead : s.live = false) :
    execWrite len s = .fault (.notLive .prod (encode (.write len))) := by
  simp [execWrite, hpay, hdead, raise, Instr.port]

theorem execWrite_of_broken (hpay : s.prod.payload.length = len) (hlive : s.live = true) (hlen : len ≠ 0)
    (hocc : s.cap < s.occProducer) : execWrite len s = .fault (.invariantBroken .prod (encode (.write len))) := by
  simp [execWrite, hpay, hlive, hlen, hocc, raise, Instr.port]

theorem execRead_of_not_live (hdead : s.live = false) :
    execRead len s = .fault (.notLive .cons (encode (.read len))) := by
  simp [execRead, hdead, raise, Instr.port]

theorem execRead_of_broken (hlive : s.live = true) (hlen : len ≠ 0) (hocc : s.cap < s.occConsumer) :
    execRead len s = .fault (.invariantBroken .cons (encode (.read len))) := by
  simp [execRead, hlive, hlen, hocc, raise, Instr.port]

/-- Settles O34: the occupancies compared are the ones each side computes from its own counter and its snapshot. -/
theorem brokenOccupancyFaults : Obligations.BrokenOccupancyFaults := by
  intro s len hlive hlen
  exact ⟨fun hpay hocc => execWrite_of_broken hpay hlive (Nat.ne_of_gt hlen) hocc,
    fun hocc => execRead_of_broken hlive (Nat.ne_of_gt hlen) hocc⟩

/-! ## From the invariant -/

theorem occProducer_le_cap (h : s.countersOk) : s.occProducer ≤ s.cap := by
  obtain ⟨rs, -, -, -, hWrs, hocc⟩ := countersOk_producer h
  omega

theorem occConsumer_le_cap (h : s.countersOk) : s.occConsumer ≤ s.cap := by
  obtain ⟨ws, -, -, hwsW, hWR, hocc⟩ := countersOk_consumer h
  omega

theorem writeOffsets_lt_storeSize (h : s.countersOk) (len : Nat) : ∀ off ∈ s.writeOffsets len, off < s.storeSize :=
  fun _ hoff => Nat.lt_of_lt_of_le (transferOffsets_lt (cap_pos s) hoff) (cap_le_storeSize h)

theorem readOffsets_lt_storeSize (h : s.countersOk) (len : Nat) : ∀ off ∈ s.readOffsets len, off < s.storeSize :=
  fun _ hoff => Nat.lt_of_lt_of_le (transferOffsets_lt (cap_pos s) hoff) (cap_le_storeSize h)

/-- A WRITE with its payload completes on a live buffer (R56, R137). -/
theorem execWrite_completes (h : s.countersOk) (hlive : s.live = true) (hpay : s.prod.payload.length = len) :
    ∃ t, execWrite len s = .next t := by
  by_cases hlen : len = 0
  · subst hlen
    exact ⟨_, execWrite_of_zero hpay hlive⟩
  · by_cases hfull : s.freeProducer = 0
    · exact ⟨_, execWrite_of_full hpay hlive hlen (occProducer_le_cap h) hfull⟩
    · exact ⟨_, execWrite_of_space hpay hlive hlen (occProducer_le_cap h) hfull (writeOffsets_lt_storeSize h len)⟩

/-- A READ completes on a live buffer (R56, R137). -/
theorem execRead_completes (h : s.countersOk) (hlive : s.live = true) (len : Nat) :
    ∃ t, execRead len s = .next t := by
  by_cases hlen : len = 0
  · subst hlen
    exact ⟨_, execRead_of_zero hlive⟩
  · by_cases hempty : s.occConsumer = 0
    · exact ⟨_, execRead_of_empty hlive hlen hempty⟩
    · exact ⟨_, execRead_of_bytes hlive hlen (occConsumer_le_cap h) hempty (readOffsets_lt_storeSize h len)⟩

/-- The faults that a misuse of the commands raises (R124); the other two are raised by a broken state alone. -/
def Fault.isMisuse : Fault → Bool
  | .notLive _ _ => true
  | .createWhileLive _ _ => true
  | .releaseWhileBusy _ _ => true
  | .invariantBroken _ _ => false
  | .outsideStore _ _ => false

theorem execWrite_fault_isMisuse (h : s.Inv) {f : Fault} (hs : execWrite len s = .fault f) : f.isMisuse = true := by
  by_cases hpay : s.prod.payload.length = len
  · cases hlive : s.live with
    | false =>
      rw [execWrite_of_not_live hpay hlive] at hs
      exact Host.Outcome.fault.inj hs ▸ rfl
    | true =>
      obtain ⟨t, ht⟩ := execWrite_completes (h.counters hlive) hlive hpay
      exact absurd (ht.symm.trans hs) nofun
  · exact absurd ((execWrite_of_payload_ne hpay).symm.trans hs) nofun

theorem execRead_fault_isMisuse (h : s.Inv) {f : Fault} (hs : execRead len s = .fault f) : f.isMisuse = true := by
  cases hlive : s.live with
  | false =>
    rw [execRead_of_not_live hlive] at hs
    exact Host.Outcome.fault.inj hs ▸ rfl
  | true =>
    obtain ⟨t, ht⟩ := execRead_completes (h.counters hlive) hlive len
    exact absurd (ht.symm.trans hs) nofun

theorem execCreate_fault_isMisuse {f : Fault} (hs : execCreate req s = .fault f) : f.isMisuse = true := by
  cases hlive : s.live with
  | true =>
    rw [execCreate_of_live hlive] at hs
    exact Host.Outcome.fault.inj hs ▸ rfl
  | false =>
    rcases Nat.lt_or_ge s.storeSize (capRound req) with hbig | hfit
    · exact absurd ((execCreate_of_large hlive hbig).symm.trans hs) nofun
    · exact absurd ((execCreate_of_fits hlive hfit).symm.trans hs) nofun

theorem execRelease_fault_isMisuse {f : Fault} (hs : execRelease s = .fault f) : f.isMisuse = true := by
  cases hlive : s.live with
  | false =>
    rw [execRelease_of_not_live hlive] at hs
    exact Host.Outcome.fault.inj hs ▸ rfl
  | true =>
    by_cases hbusy : s.prod.state ≠ .idle ∨ s.cons.state ≠ .idle
    · rw [execRelease_of_busy hlive hbusy] at hs
      exact Host.Outcome.fault.inj hs ▸ rfl
    · simp only [ne_eq, not_or, not_not] at hbusy
      exact absurd ((execRelease_of_idle hlive hbusy.1 hbusy.2).symm.trans hs) nofun

theorem execCapq_fault_isMisuse {f : Fault} (hs : execCapq s = .fault f) : f.isMisuse = true := by
  cases hlive : s.live with
  | false =>
    rw [execCapq_of_not_live hlive] at hs
    exact Host.Outcome.fault.inj hs ▸ rfl
  | true => exact absurd ((execCapq_of_live hlive).symm.trans hs) nofun

theorem exec_fault_isMisuse (h : s.Inv) {i : Instr} {f : Fault} (hs : exec i s = .fault f) : f.isMisuse = true := by
  cases i with
  | create req => exact execCreate_fault_isMisuse hs
  | release => exact execRelease_fault_isMisuse hs
  | capq => exact execCapq_fault_isMisuse hs
  | write len => exact execWrite_fault_isMisuse h hs
  | read len => exact execRead_fault_isMisuse h hs

/-! ## What can fault in a step -/

/-- Only a command faults when a port is executed. -/
theorem executePort_fault_cases {p : Port} {f : Fault} (hs : s.executePort p = .fault f) :
    ∃ tr i, (s.port p).state = .busy tr ∧ decode p tr.word = .ok i ∧ exec i s = .fault f := by
  unfold State.executePort at hs
  split at hs
  · cases hs
  · rename_i tr hbusy
    split at hs
    · cases hs
    · rename_i i hdec
      exact ⟨tr, i, hbusy, hdec, hs⟩

theorem issue_ne_fault (p : Port) (f : Fault) : s.issue p ≠ .fault f := by
  unfold State.issue
  split
  · split <;> nofun
  · nofun

theorem agentStep_ne_fault (a : Agent) (f : Fault) : s.agentStep a ≠ .fault f := by
  cases a with
  | host => exact issue_ne_fault .ctrl f
  | prod => exact issue_ne_fault .prod f
  | cons => exact issue_ne_fault .cons f
  | xw => nofun
  | xr => nofun

/-- Of the events only an execution faults. -/
theorem runEvent_fault_isMisuse (h : s.Inv) {e : Event} {f : Fault} (hs : s.runEvent e = .fault f) :
    f.isMisuse = true := by
  cases e with
  | agent a => exact absurd hs (agentStep_ne_fault a f)
  | execute p =>
    obtain ⟨-, i, -, -, hexec⟩ := executePort_fault_cases hs
    exact exec_fault_isMisuse h hexec
  | extend p tr => cases hs
  | hardwareReset => cases hs
  | attachSecond side => cases hs

theorem step_fault_isMisuse (h : s.Inv) (hmark : s.unmarked) {f : Fault} (hs : step s = .fault f) :
    f.isMisuse = true := by
  cases hag : s.agenda with
  | nil => simp [step, hmark.1, hmark.2, hag] at hs
  | cons e rest =>
    rw [step_event hmark.1 hmark.2 hag] at hs
    exact runEvent_fault_isMisuse (h.withAgenda rest) hs

/-- Settles O50: from the invariant WRITE and READ complete, so every fault is a misuse of the commands. -/
theorem internalFaultsAreUnreachable : Obligations.InternalFaultsAreUnreachable := by
  intro s h hmark p w
  exact ⟨fun hs => absurd (step_fault_isMisuse h hmark hs) nofun,
    fun hs => absurd (step_fault_isMisuse h hmark hs) nofun⟩

/-! ## A dead state hides what holds no value (R38) -/

/-- The states agree on everything that holds a value while LIVE = 0. -/
structure State.AgreesOnValues (s s' : State) : Prop where
  cfg : s'.cfg = s.cfg
  live : s'.live = s.live
  ctrl : s'.ctrl = s.ctrl
  prod : s'.prod = s.prod
  cons : s'.cons = s.cons
  faultMark : s'.faultMark = s.faultMark
  refusalMark : s'.refusalMark = s.refusalMark
  agenda : s'.agenda = s.agenda
  freeStamp : s'.freeStamp = s.freeStamp

/-- CREATE gives every other item a value (R81). -/
theorem construct_of_agrees {s' : State} (h : s.AgreesOnValues s') (k : Nat) : s'.construct k = s.construct k := by
  simp [State.construct, h.cfg, h.ctrl, h.prod, h.cons, h.faultMark, h.refusalMark, h.agenda, h.freeStamp]

/-- The outcomes are the same to an observer of LIVE and the ports, and equal where LIVE = 1. -/
def SameObserved (o o' : Result) : Prop :=
  (∀ f, o = .fault f → o' = .fault f) ∧ (∀ r, o = .refused r → o' = .refused r) ∧
  (∀ t, o = .next t → ∃ t', o' = .next t' ∧ t'.live = t.live ∧ t'.ctrl = t.ctrl ∧ t'.prod = t.prod ∧
    t'.cons = t.cons ∧ (t.live = true → t' = t))

theorem SameObserved.refl (o : Result) : SameObserved o o :=
  ⟨fun _ => id, fun _ => id, fun t ht => ⟨t, ht, rfl, rfl, rfl, rfl, fun _ => rfl⟩⟩

theorem SameObserved.next_of_dead {t t' : State} (h : t.AgreesOnValues t') (hdead : t.live = false) :
    SameObserved (.next t) (.next t') := by
  refine ⟨nofun, nofun, ?_⟩
  rintro _ ⟨⟩
  exact ⟨t', rfl, h.live, h.ctrl, h.prod, h.cons, fun hlive => by simp [hdead] at hlive⟩

theorem respond_ctrl_agrees {s' : State} (h : s.AgreesOnValues s') (st : Status) (v : Nat) (d : List Byte) :
    (s.respond .ctrl st v d).AgreesOnValues (s'.respond .ctrl st v d) :=
  ⟨h.cfg, h.live, congrArg (PortUnit.answer · st v d) h.ctrl, h.prod, h.cons, h.faultMark, h.refusalMark, h.agenda,
    h.freeStamp⟩

theorem execCreate_of_agrees {s' : State} (h : s.AgreesOnValues s') (hdead : s.live = false) (req : Nat) :
    SameObserved (execCreate req s) (execCreate req s') := by
  have hdead' : s'.live = false := h.live.trans hdead
  have hsize : s'.storeSize = s.storeSize := congrArg (2 ^ ·.maxLog2) h.cfg
  rcases Nat.lt_or_ge s.storeSize (capRound req) with hbig | hfit
  · rw [execCreate_of_large hdead hbig, execCreate_of_large hdead' (hsize ▸ hbig)]
    exact .next_of_dead (respond_ctrl_agrees h _ _ _) hdead
  · rw [execCreate_of_fits hdead hfit, execCreate_of_fits hdead' (hsize ▸ hfit), construct_of_agrees h]
    exact .refl _

/-- While LIVE = 0 every command but CREATE is stopped before it reads an item (R124, R126). -/
theorem exec_of_agrees {s' : State} (h : s.AgreesOnValues s') (hdead : s.live = false) (i : Instr) :
    SameObserved (exec i s) (exec i s') := by
  have hdead' : s'.live = false := h.live.trans hdead
  cases i with
  | create req => exact execCreate_of_agrees h hdead req
  | release =>
    simp only [exec, execRelease_of_not_live hdead, execRelease_of_not_live hdead']
    exact .refl _
  | capq =>
    simp only [exec, execCapq_of_not_live hdead, execCapq_of_not_live hdead']
    exact .refl _
  | write len =>
    have hprod : s'.prod.payload.length = s.prod.payload.length := by rw [h.prod]
    simp only [exec]
    by_cases hpay : s.prod.payload.length = len
    · rw [execWrite_of_not_live hpay hdead, execWrite_of_not_live (hprod.trans hpay) hdead']
      exact .refl _
    · rw [execWrite_of_payload_ne hpay, execWrite_of_payload_ne (hprod ▸ hpay)]
      exact .refl _
  | read len =>
    simp only [exec, execRead_of_not_live hdead, execRead_of_not_live hdead']
    exact .refl _

/-- Settles O53: the two states agree on values, and so the commands answer them alike. -/
theorem itemsWithoutValueAreNotObserved : Obligations.ItemsWithoutValueAreNotObserved := by
  intro s k a b c d m qw qr acc del i hdead s'
  have hagree : s.AgreesOnValues s' := ⟨rfl, rfl, rfl, rfl, rfl, rfl, rfl, rfl, rfl⟩
  exact exec_of_agrees hagree hdead i

end Sys2Proof.Machine
end

section
/-! The marks (R34), the occupancy states (R31) and the exact snapshots of a SYNC crossing (R28). -/

namespace Sys2Proof.Machine

variable {s : State}

/-! ## Marks -/

theorem step_of_faultMark {f : Fault} (hf : s.faultMark = some f) : step s = .fault f := by
  simp only [step, hf]

theorem step_of_refusalMark {r : Refusal} (hf : s.faultMark = none) (hr : s.refusalMark = some r) :
    step s = .refused r := by
  simp only [step, hf, hr]

theorem advance_of_fault {f : Fault} (hs : step s = .fault f) : s.advance = s.recordFault f := by
  simp only [State.advance, hs]

theorem advance_of_refused {r : Refusal} (hs : step s = .refused r) : s.advance = s.recordRefusal r := by
  simp only [State.advance, hs]

/-- A step that faults with a mark set answers that mark (R34). -/
theorem faultMark_getD_of_step {f : Fault} (hs : step s = .fault f) : s.faultMark.getD f = f := by
  cases hf : s.faultMark with
  | none => rfl
  | some g => exact Host.Outcome.fault.inj ((step_of_faultMark hf).symm.trans hs)

/-- A step that refuses with a mark set answers that mark (R34). -/
theorem refusalMark_getD_of_step {r : Refusal} (hs : step s = .refused r) : s.refusalMark.getD r = r := by
  cases hr : s.refusalMark with
  | none => rfl
  | some r' =>
    cases hf : s.faultMark with
    | none => exact Host.Outcome.refused.inj ((step_of_refusalMark hf hr).symm.trans hs)
    | some f => exact absurd ((step_of_faultMark hf).symm.trans hs) nofun

theorem advance_marks_fault {f : Fault} (hs : step s = .fault f) : s.advance = { s with faultMark := some f } := by
  rw [advance_of_fault hs, State.recordFault, faultMark_getD_of_step hs]

theorem advance_marks_refusal {r : Refusal} (hs : step s = .refused r) :
    s.advance = { s with refusalMark := some r } := by
  rw [advance_of_refused hs, State.recordRefusal, refusalMark_getD_of_step hs]

/-- A marked state stands still (log entry 10). -/
theorem advance_of_marked (h : ¬ s.unmarked) : s.advance = s := by
  cases hf : s.faultMark with
  | some f => rw [advance_marks_fault (step_of_faultMark hf), ← hf]
  | none =>
    cases hr : s.refusalMark with
    | some r => rw [advance_marks_refusal (step_of_refusalMark hf hr), ← hr]
    | none => exact absurd ⟨hf, hr⟩ h

theorem unmarked_of_final (h : s.final) : s.unmarked := by
  obtain ⟨-, -, -, hmarks⟩ := h
  exact hmarks

theorem unmarked_of_fresh {cfg : Config} {req : Nat} (h : State.fresh cfg req = some s) : s.unmarked := by
  unfold State.fresh at h
  split at h
  · rename_i t hexec
    split at h
    · obtain ⟨-, ⟨-, rfl⟩ | ⟨-, rfl⟩⟩ := execCreate_cases hexec
      · exact Option.some.inj h ▸ ⟨rfl, rfl⟩
      · exact Option.some.inj h ▸ ⟨rfl, rfl⟩
    · cases h
  · cases h

/-- Settles O35: recording a mark changes nothing else, and a marked state is a fixed point of `advance`. -/
theorem marksAreStickyAndNeverFinal : Obligations.MarksAreStickyAndNeverFinal := by
  refine ⟨fun _ _ => advance_marks_fault, fun _ _ => advance_marks_refusal, fun s k hmarked => ?_, ?_⟩
  · have hfix : State.advance^[k] s = s := Function.iterate_fixed (advance_of_marked hmarked) k
    exact ⟨hfix, hfix.symm ▸ fun hfinal => hmarked (unmarked_of_final hfinal)⟩
  · exact fun cfg host prod cons agenda =>
      ⟨⟨rfl, rfl⟩, fun req s hfresh => (unmarked_of_fresh hfresh : s.unmarked)⟩

/-! ## Occupancy -/

/-- The occupancy of the buffer is what is accepted and not yet delivered (R30). -/
theorem occ_eq_sub (h : s.countersOk) :
    s.occ = s.totalW - s.totalR ∧ s.totalR ≤ s.totalW ∧ s.totalW ≤ s.totalR + s.cap := by
  obtain ⟨-, -, -, -, -, -, -, -, hRsR, hRWs, hWsW, hWRs⟩ := countersOk_totals h
  obtain ⟨-, -, hw, hr, -⟩ := h
  have hRW : s.totalR ≤ s.totalW := hRWs.trans hWsW
  have hWR : s.totalW ≤ s.totalR + s.cap := by omega
  refine ⟨?_, hRW, hWR⟩
  rw [State.occ, hw, hr]
  exact occupancy_of_totals (cap_pos s) hRW hWR

theorem fillOf_eq_empty {c occ : Nat} : fillOf c occ = .empty ↔ occ = 0 := by
  unfold fillOf
  split_ifs with hempty hfull
  · simp [hempty]
  · simp [hempty]
  · simp [hempty]

theorem fillOf_eq_full {c occ : Nat} (hc : 0 < c) : fillOf c occ = .full ↔ occ = c := by
  unfold fillOf
  split_ifs with hempty hfull
  · simp [hempty, Nat.ne_of_lt hc]
  · simp [hfull]
  · simp [hfull]

theorem fillOf_eq_partly {c occ : Nat} : fillOf c occ = .partly ↔ occ ≠ 0 ∧ occ ≠ c := by
  unfold fillOf
  split_ifs with hempty hfull
  · simp [hempty]
  · simp [hfull]
  · simp [hempty, hfull]

/-- Settles O51: the occupancy is `W - R`, and the three states are its values 0, `c` and those between. -/
theorem occupancyTellsFullFromEmpty : Obligations.OccupancyTellsFullFromEmpty := by
  intro s h hlive
  obtain ⟨hocc, hRW, hWR⟩ := occ_eq_sub (h.counters hlive)
  have hc := cap_pos s
  refine ⟨hocc, by omega, ?_, ?_, ?_⟩
  · rw [State.fill, fillOf_eq_empty]
    omega
  · rw [State.fill, fillOf_eq_full hc]
    omega
  · rw [State.fill, fillOf_eq_partly]
    omega

/-! ## A SYNC crossing -/

/-- With nothing under way the snapshot stands for the latest total (R28, R44). -/
theorem seen_eq_latest_of_no_publication {seen latest : Nat} {totals : List Nat} {value : Nat → Nat}
    (h : publicationsPending seen latest totals) (hempty : totals.map value = []) : seen = latest := by
  rw [List.map_eq_nil_iff.mp hempty] at h
  exact publicationsPending_nil.mp h

/-- Settles O38: under SYNC nothing is under way, so each snapshot holds the value of the latest total. -/
theorem syncSnapshotsAreExact : Obligations.SyncSnapshotsAreExact := by
  intro s h hlive hsync
  obtain ⟨hqW, hqR⟩ := h.syncQueues hsync
  have hcount := h.counters hlive
  obtain ⟨tw, tr, hws, hrs, htw, htr, hpW, hpR, -⟩ := countersOk_totals hcount
  obtain ⟨-, -, hw, hr, -⟩ := hcount
  refine ⟨?_, ?_, hqW, hqR⟩
  · rw [hws, hw, seen_eq_latest_of_no_publication hpW (htw.symm.trans hqW)]
  · rw [hrs, hr, seen_eq_latest_of_no_publication hpR (htr.symm.trans hqR)]

end Sys2Proof.Machine
end

section
/-! One step runs one command: the one outstanding on the executed port (R33, R69), or a word placed for it (log entry
3), which is the encoding of its command (R61). -/

namespace Sys2Proof

/-! ## A word is its fields (R61) and its bytes (R41) -/

theorem commandWord_of_fields {w : Word} (h : rsvdField w = 0#4) : commandWord (opField w) (argField w).toNat = w := by
  apply BitVec.eq_of_getLsbD_eq
  intro k hk
  rw [getLsbD_commandWord]
  split
  · rename_i hlow
    rw [BitVec.ofNat_toNat, BitVec.setWidth_eq]
    simp [argField, hlow]
  · split
    · have hbit := congrArg (BitVec.getLsbD · (k - 24)) h
      have hsum : 24 + (k - 24) = k := by omega
      have hlow : k - 24 < 4 := by omega
      simpa [rsvdField, hsum, hlow] using hbit.symm
    · have hsum : 28 + (k - 28) = k := by omega
      have hlow : k - 28 < 4 := by omega
      simp [opField, hsum, hlow]

/-- A word that decodes is the encoding of its command. -/
theorem encode_of_decodeWord {w : Word} {i : Instr} (h : decodeWord w = .ok i) : encode i = w := by
  unfold decodeWord at h
  split at h
  · cases h
  · rename_i hrsvd
    have hfields := commandWord_of_fields (not_not.mp hrsvd)
    split_ifs at h with hcreate hrelease harg hcapq harg hwrite hread <;> cases h
    · rwa [hcreate] at hfields
    · rwa [hrelease, not_not.mp harg] at hfields
    · rwa [hcapq, not_not.mp harg] at hfields
    · rwa [hwrite] at hfields
    · rwa [hread] at hfields

theorem decodeWord_of_decode {p : Port} {w : Word} {i : Instr} (h : decode p w = .ok i) : decodeWord w = .ok i := by
  unfold decode at h
  split at h
  · cases h
  · rename_i j hj
    split at h
    · exact hj.trans h
    · cases h

theorem wordOfBytes_bytesOfWord (w : Word) :
    wordOfBytes (w.extractLsb' 0 8) (w.extractLsb' 8 8) (w.extractLsb' 16 8) (w.extractLsb' 24 8) = w := by
  unfold wordOfBytes
  rw [BitVec.extractLsb'_append_extractLsb'_eq_extractLsb' (by decide),
    BitVec.extractLsb'_append_extractLsb'_eq_extractLsb' (by decide),
    BitVec.extractLsb'_append_extractLsb'_eq_extractLsb' (by decide), BitVec.extractLsb'_eq_self]

/-- Decoding a serialised word is decoding the word (R41). -/
theorem decodeBytes_bytesOfWord (p : Port) (w : Word) : decodeBytes p (bytesOfWord w) = (decode p w).map (·, []) := by
  simp only [bytesOfWord, decodeBytes, wordOfBytes_bytesOfWord]
  cases decode p w <;> rfl

/-- A word given in the table's numbering is decoded on the port it is for. -/
theorem decode_of_decodeTableWord {nbits w : Nat} {i : Instr} (h : decodeTableWord nbits w = some i) :
    decode (portOfWord (tableWord nbits w)) (tableWord nbits w) = .ok i := by
  simp only [decodeTableWord, decodeBytes_bytesOfWord] at h
  split at h
  · cases h
  · cases hdec : decode (portOfWord (tableWord nbits w)) (tableWord nbits w) with
    | error e => simp [hdec, Except.map] at h
    | ok j => simpa [hdec, Except.map] using h

end Sys2Proof

namespace Sys2Proof.Machine

/-! ## The step of an execution -/

theorem executePort_of_busy {s : State} {p : Port} {tr : Transaction} {i : Instr} (hbusy : (s.port p).state = .busy tr)
    (hdec : decode p tr.word = .ok i) : s.executePort p = exec i s := by
  simp only [State.executePort, hbusy, hdec]

/-- Settles O8: the step runs the event, and the event the decoded command. -/
theorem stepRunsTheOutstandingCommand : Obligations.StepRunsTheOutstandingCommand := by
  intro s p rest tr i hmark hag hbusy hdec
  rw [step_event hmark.1 hmark.2 hag]
  exact executePort_of_busy hbusy hdec

theorem fetchTransaction_wellFormed (p : Port) (w : Word) : (fetchTransaction p w).wellFormed p = true := by
  simp [Transaction.wellFormed, fetchTransaction]

namespace State

/-- The state with a transaction outstanding on a port. -/
def withBusy (s : State) (p : Port) (tr : Transaction) : State := s.setPort p { (s.port p) with state := .busy tr }

theorem port_withBusy (s : State) (p : Port) (tr : Transaction) :
    (s.withBusy p tr).port p = { (s.port p) with state := .busy tr } := port_setPort_same s p _

end State

/-- The step after a word was placed runs its command on the port it is for, with the agenda as before. -/
theorem step_placeWord {s : State} (hmark : s.unmarked) {w : Word} {i : Instr}
    (hdec : decode (portOfWord w) w = .ok i) :
    step (s.placeWord w) = exec i (s.withBusy (portOfWord w) (fetchTransaction (portOfWord w) w)) := by
  have hf : (s.placeWord w).faultMark = none := (State.setPort_faultMark _ _ _).trans hmark.1
  have hr : (s.placeWord w).refusalMark = none := (State.setPort_refusalMark _ _ _).trans hmark.2
  have hag : (s.placeWord w).agenda = .execute (portOfWord w) ::
      (s.withBusy (portOfWord w) (fetchTransaction (portOfWord w) w)).agenda :=
    congrArg (List.cons _) (State.setPort_agenda _ _ _).symm
  have hbusy := congrArg PortUnit.state (State.port_withBusy s (portOfWord w) (fetchTransaction (portOfWord w) w))
  exact (step_event hf hr hag).trans (executePort_of_busy hbusy hdec)

/-- Settles O9: the placed word is decoded on its own port, of which it is the encoding of a command. -/
theorem placedWordRunsNext : Obligations.PlacedWordRunsNext := by
  intro s w i hmark _ htable
  have hdec := decode_of_decodeTableWord htable
  have hencode := encode_of_decodeWord (decodeWord_of_decode hdec)
  have hstep : step (s.withFetchWord 32 w) = _ := step_placeWord hmark hdec
  rw [← port_of_decode hdec] at hstep
  exact ⟨_, hencode.symm, fetchTransaction_wellFormed _ _, hstep⟩

/-! ## The step of an issue -/

theorem issue_of_wellFormed {s : State} {p : Port} {tr : Transaction} {trs : List Transaction}
    (hidle : (s.port p).state = .idle) (hstream : (s.port p).stream = tr :: trs) (hwf : tr.wellFormed p = true) :
    s.issue p = .next (s.setPort p { (s.port p) with state := .busy tr, stream := trs }) := by
  simp only [State.issue, hidle, hstream, hwf, if_pos]

theorem issue_of_illFormed {s : State} {p : Port} {tr : Transaction} {trs : List Transaction}
    (hidle : (s.port p).state = .idle) (hstream : (s.port p).stream = tr :: trs) (hwf : tr.wellFormed p = false) :
    s.issue p = .refused (.payloadMismatch p tr.word) := by
  simp [State.issue, hidle, hstream, hwf]

theorem issue_of_busy {s : State} {p : Port} (hbusy : (s.port p).state ≠ .idle) : s.issue p = .next s := by
  unfold State.issue
  split
  · rename_i hidle _
    exact absurd hidle hbusy
  · rfl

/-- The step of a port agent is the issue step of its port (R15, R33). -/
theorem step_issue {s : State} {a : Agent} {p : Port} {rest : List Event} (hmark : s.unmarked)
    (hag : s.agenda = .agent a :: rest)
    (hap : (a, p) ∈ [(Agent.host, Port.ctrl), (Agent.prod, Port.prod), (Agent.cons, Port.cons)]) :
    step s = State.issue { s with agenda := rest } p := by
  rw [step_event hmark.1 hmark.2 hag]
  simp only [List.mem_cons, Prod.mk.injEq, List.not_mem_nil, or_false] at hap
  obtain ⟨rfl, rfl⟩ | ⟨rfl, rfl⟩ | ⟨rfl, rfl⟩ := hap <;> rfl

/-- Settles O10: the three cases of the issue step. -/
theorem issueMovesPortToBusy : Obligations.IssueMovesPortToBusy := by
  intro s a p rest hmark hag hap
  rw [step_issue hmark hag hap]
  refine ⟨fun tr trs hidle hstream hwf => issue_of_wellFormed hidle hstream hwf,
    fun tr trs hidle hstream hwf => issue_of_illFormed hidle hstream hwf, ?_⟩
  rintro (hbusy | hstream)
  · exact issue_of_busy hbusy
  · exact issue_of_exhausted hstream

/-- Settles O55: the fields of `State.resetWith`, and the standard build is legal. -/
theorem resetStateIsAsTheTableSays : Obligations.ResetStateIsAsTheTableSays := by
  intro cfg
  have hidle : ∀ p, ((State.resetWith cfg).port p).state = .idle := fun p => by cases p <;> rfl
  exact ⟨rfl, hidle, rfl, rfl, ⟨rfl, rfl⟩, rfl, Config.standard, by decide, rfl⟩

end Sys2Proof.Machine
end

section
/-! The chunks of a transfer (R40), the bytes of a serialised word (R41) and the deliveries of the crossing (R47). -/

namespace Sys2Proof

/-! ## A serialised word (R41) -/

theorem getElem_bytesOfWord {w : Word} {k : Nat} (hk : k < (bytesOfWord w).length) :
    (bytesOfWord w)[k] = w.extractLsb' (8 * k) 8 := by
  have hlist : bytesOfWord w = (List.range 4).map fun k => w.extractLsb' (8 * k) 8 := rfl
  simp [hlist]

/-- Decoding takes the bytes of one word and leaves the rest of the stream. -/
theorem decodeBytes_bytesOfWord_append (p : Port) (w : Word) (rest : List Byte) :
    decodeBytes p (bytesOfWord w ++ rest) = (decode p w).map (·, rest) := by
  simp only [bytesOfWord, List.cons_append, List.nil_append, decodeBytes, wordOfBytes_bytesOfWord]
  cases decode p w <;> rfl

/-- Settles O6: byte `k` is a field of the word, and the four fields make it up again. -/
theorem serialisedWordDecodesAsTheWord : Obligations.SerialisedWordDecodesAsTheWord := by
  intro p w rest
  refine ⟨fun k hk => ?_, ?_⟩
  · rw [getElem_bytesOfWord, BitVec.extractLsb'_toNat, Nat.shiftRight_eq_div_pow]
  · rw [decodeBytes_bytesOfWord_append]
    cases decode p w <;> rfl

end Sys2Proof

namespace Sys2Proof.Machine

/-! ## The chunks of a transfer (R40) -/

/-- Up to the physical end the offsets of a transfer are the positions themselves. -/
theorem transferOffsets_of_le {c start n : Nat} (hfit : start + n ≤ c) :
    transferOffsets c start n = List.range' start n := by
  refine List.ext_getElem (by simp) fun i hi _ => ?_
  have hi : i < n := by simpa using hi
  rw [getElem_transferOffsets, List.getElem_range', Nat.mod_eq_of_lt (by omega), Nat.one_mul]

/-- A transfer in two parts: the second goes on where the first ended. -/
theorem transferOffsets_add (c start m n : Nat) :
    transferOffsets c start (m + n) = transferOffsets c start m ++ transferOffsets c (start + m) n := by
  simp [transferOffsets, List.range_add, Nat.add_assoc]

/-- Past the physical end the offsets begin again at 0. -/
theorem transferOffsets_self {c n : Nat} (hn : n ≤ c) : transferOffsets c c n = List.range' 0 n := by
  rw [← transferOffsets_mod, Nat.mod_self, transferOffsets_of_le (by omega)]

theorem firstChunk_of_le {c start n : Nat} (h : start + n ≤ c) : firstChunk c start n = n :=
  if_neg (Nat.not_lt.mpr h)

theorem secondChunk_of_le {c start n : Nat} (h : start + n ≤ c) : secondChunk c start n = 0 :=
  if_neg (Nat.not_lt.mpr h)

theorem firstChunk_of_lt {c start n : Nat} (h : c < start + n) : firstChunk c start n = c - start := if_pos h

theorem secondChunk_of_lt {c start n : Nat} (h : c < start + n) : secondChunk c start n = start + n - c := if_pos h

/-- Settles O43: a transfer that straddles the end is one up to it and one from 0 on. -/
theorem transferIsTwoContiguousChunks : Obligations.TransferIsTwoContiguousChunks := by
  intro c start n hstart hn
  rcases Nat.lt_or_ge c (start + n) with hpast | hfit
  · rw [firstChunk_of_lt hpast, secondChunk_of_lt hpast]
    have hsum : c - start + (start + n - c) = n := by omega
    refine ⟨?_, hsum, fun hfit => absurd hfit (by omega), fun _ => rfl⟩
    calc transferOffsets c start n
        = transferOffsets c start (c - start) ++ transferOffsets c (start + (c - start)) (start + n - c) := by
          rw [← transferOffsets_add, hsum]
      _ = transferOffsets c start (c - start) ++ transferOffsets c c (start + n - c) := by
          rw [Nat.add_sub_cancel' hstart.le]
      _ = List.range' start (c - start) ++ List.range' 0 (start + n - c) := by
          rw [transferOffsets_of_le (by omega), transferOffsets_self (by omega)]
  · rw [firstChunk_of_le hfit, secondChunk_of_le hfit, transferOffsets_of_le hfit]
    exact ⟨by simp, rfl, fun _ => ⟨rfl, rfl⟩, fun hpast => absurd hpast (by omega)⟩

/-! ## The crossing (R47) -/

theorem stepXW_of_queued {s : State} {v : Nat} {q : List Nat} (hcross : s.cfg.crossing = .async) (hq : s.qW = v :: q) :
    s.stepXW = { s with wrSeen := v, qW := q } := by
  simp only [State.stepXW, hcross, hq]

theorem stepXR_of_queued {s : State} {v : Nat} {q : List Nat} (hcross : s.cfg.crossing = .async) (hq : s.qR = v :: q) :
    s.stepXR = { s with rdSeen := v, qR := q } := by
  simp only [State.stepXR, hcross, hq]

theorem stepXW_of_disabled {s : State} (h : s.cfg.crossing = .sync ∨ s.qW = []) : s.stepXW = s := by
  rcases h with hsync | hempty
  · simp [State.stepXW, hsync]
  · simp [State.stepXW, hempty]

theorem stepXR_of_disabled {s : State} (h : s.cfg.crossing = .sync ∨ s.qR = []) : s.stepXR = s := by
  rcases h with hsync | hempty
  · simp [State.stepXR, hsync]
  · simp [State.stepXR, hempty]

/-- Settles O37: the step of a crossing agent is its delivery. -/
theorem crossingDeliversTheHead : Obligations.CrossingDeliversTheHead := by
  intro s rest hmark
  refine ⟨fun hag => ?_, fun hag => ?_⟩
  · rw [step_event hmark.1 hmark.2 hag]
    exact ⟨fun v q hcross hq => congrArg _ (stepXW_of_queued (s := { s with agenda := rest }) hcross hq),
      fun h => congrArg _ (stepXW_of_disabled (s := { s with agenda := rest }) h)⟩
  · rw [step_event hmark.1 hmark.2 hag]
    exact ⟨fun v q hcross hq => congrArg _ (stepXR_of_queued (s := { s with agenda := rest }) hcross hq),
      fun h => congrArg _ (stepXR_of_disabled (s := { s with agenda := rest }) h)⟩

end Sys2Proof.Machine
end
section
/-! What each side may touch and see (R49, R51), and that its command completes whatever the other ports hold (R56). -/

namespace Sys2Proof.Machine

/-- Settles O40: the occupancies are differences of the totals, so a snapshot that lags shows too little. -/
theorem snapshotBoundsHold : Obligations.SnapshotBoundsHold := by
  intro s h hlive
  have hcount := h.counters hlive
  obtain ⟨-, -, hws, hrs, -, -, -, -, hRsR, hRWs, hWsW, hWRs⟩ := countersOk_totals hcount
  obtain ⟨hocc, -, -⟩ := occ_eq_sub hcount
  obtain ⟨hoccP, -⟩ := occProducer_eq_sub_totalRs hcount
  have hfree : s.freeProducer = s.cap - s.occProducer := rfl
  have hseen : s.totalWs = s.totalR + s.occConsumer := rfl
  exact ⟨hRsR, hRWs, hWsW, hWRs, hws, hrs, by omega, by omega⟩

/-! ## Storage (R51) -/

/-- A WRITE stores between the last accepted byte and the room that the producer knows of. -/
theorem mem_writeOffsets {s : State} (h : s.countersOk) {len off : Nat} (hoff : off ∈ s.writeOffsets len) :
    ∃ i, s.totalW + i < s.totalRs + s.cap ∧ off = (s.totalW + i) % s.cap := by
  rw [writeOffsets_eq_totalW h] at hoff
  obtain ⟨i, hi, rfl⟩ := mem_transferOffsets.mp hoff
  have := totalW_add_writeCount_le h len
  exact ⟨i, by omega, rfl⟩

/-- A READ reads between the last delivered byte and the last that the consumer knows of. -/
theorem mem_readOffsets {s : State} (h : s.countersOk) {len off : Nat} (hoff : off ∈ s.readOffsets len) :
    ∃ i, s.totalR + i < s.totalWs ∧ off = (s.totalR + i) % s.cap := by
  rw [readOffsets_eq_totalR h] at hoff
  obtain ⟨i, hi, rfl⟩ := mem_transferOffsets.mp hoff
  have := totalR_add_readCount_le s len
  exact ⟨i, by omega, rfl⟩

/-- A position that the producer may fill is less than a capacity past every unread one (R32). -/
theorem not_consumerOwns_of_room {s : State} {i : Nat} (hRsR : s.totalRs ≤ s.totalR)
    (hroom : s.totalW + i < s.totalRs + s.cap) : ¬ s.consumerOwns ((s.totalW + i) % s.cap) := by
  rintro ⟨j, hR, hW, heq⟩
  have hR : s.totalR ≤ j := hR
  have hW : j < s.totalW := hW
  exact offset_ne (show j < s.totalW + i by omega) (by omega) heq.symm

/-- Settles O44: the offsets of a WRITE and of a READ lie on the two sides of the consumer's part. -/
theorem writesAndReadsAreDisjoint : Obligations.WritesAndReadsAreDisjoint := by
  intro s h hlive len
  have hcount := h.counters hlive
  obtain ⟨-, -, -, -, -, -, -, -, hRsR, -, hWsW, -⟩ := countersOk_totals hcount
  refine ⟨fun off hoff => ?_, fun off hoff => ?_⟩
  · obtain ⟨i, hroom, rfl⟩ := mem_writeOffsets hcount hoff
    exact ⟨not_consumerOwns_of_room hRsR hroom, i, by omega, rfl⟩
  · obtain ⟨i, hseen, rfl⟩ := mem_readOffsets hcount hoff
    have hW : s.totalR + i < s.totalW := by omega
    refine ⟨⟨s.totalR + i, Nat.le_add_right _ i, hW, rfl⟩, ?_, i, by omega, rfl⟩
    rw [(h.bytes hlive).1 _ (Nat.le_add_right _ i) hW, List.getElem?_eq_getElem hW]
    rfl

/-! ## Completion (R56, R137) -/

/-- A WRITE outstanding on PROD has its payload beside it (R68, R90). -/
theorem payload_length_of_wellFormed {s : State} (h : s.portsOk) {tr : Transaction} {len : Nat}
    (hbusy : s.prod.state = .busy tr) (hdec : decode .prod tr.word = .ok (.write len)) :
    s.prod.payload.length = len := by
  have hwf : tr.payload.length = payloadLength .prod tr.word := of_decide_eq_true (h .prod tr hbusy)
  rw [payloadLength_prod_write hdec] at hwf
  simpa [PortUnit.payload, hbusy] using hwf

/-- What decodes on PROD or CONS completes: it is a WRITE or a READ (R63). -/
theorem exec_completes {s : State} (h : s.Inv) (hlive : s.live = true) {p : Port} (hp : p ≠ .ctrl) {tr : Transaction}
    {i : Instr} (hbusy : (s.port p).state = .busy tr) (hdec : decode p tr.word = .ok i) : ∃ t, exec i s = .next t := by
  obtain rfl := port_of_decode hdec
  cases i with
  | create req => exact absurd rfl hp
  | release => exact absurd rfl hp
  | capq => exact absurd rfl hp
  | write len =>
    exact execWrite_completes (h.counters hlive) hlive (payload_length_of_wellFormed h.ports hbusy hdec)
  | read len => exact execRead_completes (h.counters hlive) hlive len

theorem executePort_of_illegal {s : State} {p : Port} {tr : Transaction} {e : Illegal}
    (hbusy : (s.port p).state = .busy tr) (hdec : decode p tr.word = .error e) :
    s.executePort p = .next (s.respond p .illegal 0 []) := by
  simp only [State.executePort, hbusy, hdec]

theorem executePort_completes {s : State} (h : s.Inv) (hlive : s.live = true) {p : Port} (hp : p ≠ .ctrl)
    {tr : Transaction} (hbusy : (s.port p).state = .busy tr) : ∃ t, s.executePort p = .next t := by
  cases hdec : decode p tr.word with
  | error e => exact ⟨_, executePort_of_illegal hbusy hdec⟩
  | ok i =>
    rw [executePort_of_busy hbusy hdec]
    exact exec_completes h hlive hp hbusy hdec

/-- Executing PROD or CONS leaves the port IDLE: a command outstanding there completes and is answered. -/
theorem executePort_idles {s : State} (h : s.Inv) (hlive : s.live = true) {p : Port} (hp : p ≠ .ctrl) :
    ∃ t, s.executePort p = .next t ∧ (t.port p).state = .idle := by
  cases hstate : (s.port p).state with
  | idle => exact ⟨s, executePort_of_idle hstate, hstate⟩
  | busy tr =>
    obtain ⟨t, ht⟩ := executePort_completes h hlive hp hstate
    obtain ⟨st, v, d, hport, -⟩ := executePort_responds hstate ht
    exact ⟨t, ht, by rw [hport, State.answer_state]⟩

/-- Settles O49: the step executes the port, whatever the others hold. -/
theorem writeAndReadAlwaysComplete : Obligations.WriteAndReadAlwaysComplete := by
  intro s p rest h hlive hmark hp hag
  rw [step_event hmark.1 hmark.2 hag]
  exact executePort_idles (h.withAgenda rest) hlive hp

end Sys2Proof.Machine
end

section
/-! The parts of the buffer by their writers (R44): an event leaves them as they are, or it is one of the four that
write them. So each part has one writer, and no total goes back (R48). -/

namespace Sys2Proof.Machine

/-! ## Who writes the buffer -/

/-- `t` has the registers, queues, STORAGE and streams of `s`. -/
structure State.SameBuffer (s t : State) : Prop where
  cfg : t.cfg = s.cfg
  capLog2 : t.capLog2 = s.capLog2
  wrPtr : t.wrPtr = s.wrPtr
  rdPtr : t.rdPtr = s.rdPtr
  storage : t.storage = s.storage
  rdSeen : t.rdSeen = s.rdSeen
  wrSeen : t.wrSeen = s.wrSeen
  qW : t.qW = s.qW
  qR : t.qR = s.qR
  accepted : t.accepted = s.accepted
  delivered : t.delivered = s.delivered

namespace State.SameBuffer

theorem refl (s : State) : s.SameBuffer s := ⟨rfl, rfl, rfl, rfl, rfl, rfl, rfl, rfl, rfl, rfl, rfl⟩

theorem setPort (s : State) (p : Port) (u : PortUnit) : s.SameBuffer (s.setPort p u) := by
  constructor <;> simp

theorem respond (s : State) (p : Port) (st : Status) (v : Nat) (d : List Byte) : s.SameBuffer (s.respond p st v d) :=
  setPort s p _

theorem issue {s t : State} {p : Port} (hs : s.issue p = .next t) : s.SameBuffer t := by
  obtain ⟨tr, rest, -, -, -, rfl⟩ | rfl := issue_cases hs
  · exact setPort s p _
  · exact refl t

end State.SameBuffer

/-- What an event did to the buffer of `s`, which lives on in `t`. -/
inductive BufferEvent (s t : State) : Event → Prop where
  /-- No part was written. -/
  | unchanged {e : Event} (same : s.SameBuffer t) : BufferEvent s t e
  /-- XW delivered (R47). -/
  | xw (same : s.stepXW.SameBuffer t) : BufferEvent s t (.agent .xw)
  /-- XR delivered (R47). -/
  | xr (same : s.stepXR.SameBuffer t) : BufferEvent s t (.agent .xr)
  /-- A WRITE moved bytes (R91). -/
  | write {len : Nat} (payload : s.prod.payload.length = len) (moved : s.writeCount len ≠ 0)
      (same : (s.afterWrite len).SameBuffer t) : BufferEvent s t (.execute .prod)
  /-- A READ moved bytes (R101). -/
  | read {len : Nat} (moved : s.readCount len ≠ 0) (same : (s.afterRead len).SameBuffer t) :
      BufferEvent s t (.execute .cons)

theorem agentStep_buffer {s t : State} {a : Agent} (hs : s.agentStep a = .next t) : BufferEvent s t (.agent a) := by
  cases a with
  | host => exact .unchanged (.issue hs)
  | prod => exact .unchanged (.issue hs)
  | cons => exact .unchanged (.issue hs)
  | xw => exact .xw (Host.Outcome.next.inj hs ▸ .refl _)
  | xr => exact .xr (Host.Outcome.next.inj hs ▸ .refl _)

theorem exec_buffer {s t : State} {i : Instr} (hlive : s.live = true) (hs : exec i s = .next t)
    (hlive' : t.live = true) : BufferEvent s t (.execute i.port) := by
  cases i with
  | create req => exact absurd hlive (by simp [(execCreate_cases hs).1])
  | release =>
    obtain ⟨-, -, -, rfl⟩ := execRelease_cases hs
    simp at hlive'
  | capq => exact .unchanged ((execCapq_cases hs).2 ▸ .respond _ _ _ _ _)
  | write len =>
    obtain ⟨hpay, -, ⟨-, rfl⟩ | ⟨-, -, -, rfl⟩ | ⟨hlen, -, hfree, -, rfl⟩⟩ := execWrite_cases hs
    · exact .unchanged (.respond _ _ _ _ _)
    · exact .unchanged (.respond _ _ _ _ _)
    · exact .write hpay (writeCount_ne_zero hlen hfree) (.respond _ _ _ _ _)
  | read len =>
    obtain ⟨-, ⟨-, rfl⟩ | ⟨-, -, rfl⟩ | ⟨hlen, -, hocc, -, rfl⟩⟩ := execRead_cases hs
    · exact .unchanged (.respond _ _ _ _ _)
    · exact .unchanged (.respond _ _ _ _ _)
    · exact .read (readCount_ne_zero hlen hocc) (.respond _ _ _ _ _)

theorem executePort_buffer {s t : State} {p : Port} (hlive : s.live = true) (hs : s.executePort p = .next t)
    (hlive' : t.live = true) : BufferEvent s t (.execute p) := by
  obtain ⟨-, rfl⟩ | ⟨-, -, -, -, rfl⟩ | ⟨tr, i, -, hdec, hexec⟩ := executePort_cases hs
  · exact .unchanged (.refl _)
  · exact .unchanged (.respond _ _ _ _ _)
  · obtain rfl := port_of_decode hdec
    exact exec_buffer hlive hexec hlive'

theorem runEvent_buffer {s t : State} {e : Event} (hlive : s.live = true) (hs : s.runEvent e = .next t)
    (hlive' : t.live = true) : BufferEvent s t e := by
  obtain ⟨a, rfl, ha⟩ | ⟨p, rfl, hp⟩ | ⟨p, tr, rfl, rfl⟩ | ⟨rfl, rfl⟩ := runEvent_cases hs
  · exact agentStep_buffer ha
  · exact executePort_buffer hlive hp hlive'
  · exact .unchanged (.setPort _ _ _)
  · simp at hlive'

/-! ## One writer for each part -/

theorem stepXW_of_sync {s : State} (h : s.cfg.crossing = .sync) : s.stepXW = s := stepXW_of_disabled (.inl h)

theorem stepXR_of_sync {s : State} (h : s.cfg.crossing = .sync) : s.stepXR = s := stepXR_of_disabled (.inl h)

/-- Under ASYNC a WRITE publishes to the queue and leaves the snapshot to XW (R45). -/
theorem afterWrite_wrSeen_of_async {s : State} (h : s.cfg.crossing = .async) (len : Nat) :
    (s.afterWrite len).wrSeen = s.wrSeen := by
  rw [State.afterWrite, State.publishWr_async (s.stored len) _ h]
  rfl

/-- Under ASYNC a READ publishes to the queue and leaves the snapshot to XR (R45). -/
theorem afterRead_rdSeen_of_async {s : State} (h : s.cfg.crossing = .async) (len : Nat) :
    (s.afterRead len).rdSeen = s.rdSeen := by
  rw [State.afterRead, State.publishRd_async (s.taken len) _ h]
  rfl

variable {s t : State} {e : Event}

theorem BufferEvent.producer_writes (h : BufferEvent s t e)
    (hne : t.wrPtr ≠ s.wrPtr ∨ t.storage ≠ s.storage ∨ t.accepted ≠ s.accepted) : e = .execute .prod := by
  cases h with
  | unchanged same => simp [same.wrPtr, same.storage, same.accepted] at hne
  | xw same => simp [same.wrPtr, same.storage, same.accepted] at hne
  | xr same => simp [same.wrPtr, same.storage, same.accepted] at hne
  | write _ _ same => rfl
  | read _ same => simp [same.wrPtr, same.storage, same.accepted] at hne

theorem BufferEvent.consumer_reads (h : BufferEvent s t e)
    (hne : t.rdPtr ≠ s.rdPtr ∨ t.delivered ≠ s.delivered) : e = .execute .cons := by
  cases h with
  | unchanged same => simp [same.rdPtr, same.delivered] at hne
  | xw same => simp [same.rdPtr, same.delivered] at hne
  | xr same => simp [same.rdPtr, same.delivered] at hne
  | write _ _ same => simp [same.rdPtr, same.delivered] at hne
  | read _ same => rfl

theorem BufferEvent.wrSeen_writer (h : BufferEvent s t e) (hne : t.wrSeen ≠ s.wrSeen) :
    (e = .agent .xw ∧ s.cfg.crossing = .async) ∨ (e = .execute .prod ∧ s.cfg.crossing = .sync) := by
  cases hcross : s.cfg.crossing with
  | sync =>
    cases h with
    | unchanged same => exact absurd same.wrSeen hne
    | xw same => exact absurd (stepXW_of_sync hcross ▸ same.wrSeen) hne
    | xr same => exact absurd (stepXR_of_sync hcross ▸ same.wrSeen) hne
    | write _ _ same => exact .inr ⟨rfl, rfl⟩
    | read _ same => simp [same.wrSeen] at hne
  | async =>
    cases h with
    | unchanged same => exact absurd same.wrSeen hne
    | xw same => exact .inl ⟨rfl, rfl⟩
    | xr same => simp [same.wrSeen] at hne
    | write _ _ same => simp [same.wrSeen, afterWrite_wrSeen_of_async hcross] at hne
    | read _ same => simp [same.wrSeen] at hne

theorem BufferEvent.rdSeen_writer (h : BufferEvent s t e) (hne : t.rdSeen ≠ s.rdSeen) :
    (e = .agent .xr ∧ s.cfg.crossing = .async) ∨ (e = .execute .cons ∧ s.cfg.crossing = .sync) := by
  cases hcross : s.cfg.crossing with
  | sync =>
    cases h with
    | unchanged same => exact absurd same.rdSeen hne
    | xw same => exact absurd (stepXW_of_sync hcross ▸ same.rdSeen) hne
    | xr same => exact absurd (stepXR_of_sync hcross ▸ same.rdSeen) hne
    | write _ _ same => simp [same.rdSeen] at hne
    | read _ same => exact .inr ⟨rfl, rfl⟩
  | async =>
    cases h with
    | unchanged same => exact absurd same.rdSeen hne
    | xw same => simp [same.rdSeen] at hne
    | xr same => exact .inl ⟨rfl, rfl⟩
    | write _ _ same => simp [same.rdSeen] at hne
    | read _ same => simp [same.rdSeen, afterRead_rdSeen_of_async hcross] at hne

theorem BufferEvent.qW_writer (h : BufferEvent s t e) (hne : t.qW ≠ s.qW) : e = .agent .xw ∨ e = .execute .prod := by
  cases h with
  | unchanged same => exact absurd same.qW hne
  | xw same => exact .inl rfl
  | xr same => simp [same.qW] at hne
  | write _ _ same => exact .inr rfl
  | read _ same => simp [same.qW] at hne

theorem BufferEvent.qR_writer (h : BufferEvent s t e) (hne : t.qR ≠ s.qR) : e = .agent .xr ∨ e = .execute .cons := by
  cases h with
  | unchanged same => exact absurd same.qR hne
  | xw same => simp [same.qR] at hne
  | xr same => exact .inl rfl
  | write _ _ same => simp [same.qR] at hne
  | read _ same => exact .inr rfl

/-- Settles O48: part by part, the events that write it. -/
theorem eachCounterHasOneWriter : Obligations.EachCounterHasOneWriter := by
  intro s t e rest hag hlive hs hlive'
  have h := runEvent_buffer (s := { s with agenda := rest }) hlive (runEvent_of_step hag hs) hlive'
  exact ⟨h.producer_writes, h.consumer_reads, h.wrSeen_writer, h.rdSeen_writer, h.qW_writer, h.qR_writer⟩

/-! ## The totals of the snapshots -/

theorem totalWs_eq_of_wrSeen {ws : Nat} (hr : s.rdPtr = rdOfTotal s.cap s.totalR)
    (hseen : s.wrSeen = wrOfTotal s.cap ws) (hle : s.totalR ≤ ws) (hcap : ws ≤ s.totalR + s.cap) : s.totalWs = ws := by
  have hocc : s.occConsumer = ws - s.totalR := by
    rw [State.occConsumer, State.sampleWr, hseen, hr]
    exact occupancy_of_totals (cap_pos s) hle hcap
  rw [State.totalWs, hocc]
  omega

theorem totalRs_eq_of_rdSeen {rs : Nat} (hw : s.wrPtr = wrOfTotal s.cap s.totalW)
    (hseen : s.rdSeen = rdOfTotal s.cap rs) (hle : rs ≤ s.totalW) (hcap : s.totalW ≤ rs + s.cap) : s.totalRs = rs := by
  have hocc : s.occProducer = s.totalW - rs := by
    rw [State.occProducer, State.sampleRd, hseen, hw]
    exact occupancy_of_totals (cap_pos s) hle hcap
  rw [State.totalRs, hocc]
  omega

/-- With nothing in the queue the consumer has seen the latest total (R44). -/
theorem totalWs_eq_totalW_of_empty (h : s.countersOk) (hq : s.qW = []) : s.totalWs = s.totalW := by
  obtain ⟨tw, -, -, -, hqW, -, hpW, -⟩ := countersOk_totals h
  exact seen_eq_latest_of_no_publication hpW (hqW.symm.trans hq)

/-- With nothing in the queue the producer has seen the latest total (R44). -/
theorem totalRs_eq_totalR_of_empty (h : s.countersOk) (hq : s.qR = []) : s.totalRs = s.totalR := by
  obtain ⟨-, tr, -, -, -, hqR, -, hpR, -⟩ := countersOk_totals h
  exact seen_eq_latest_of_no_publication hpR (hqR.symm.trans hq)

/-- A delivery takes the consumer's snapshot forward (R47, R48). -/
theorem totalWs_lt_stepXW (h : s.Inv) (hcross : s.cfg.crossing = .async) (hq : s.qW ≠ []) :
    s.totalWs < s.stepXW.totalWs := by
  obtain ⟨v, rest, hcons⟩ := List.exists_cons_of_ne_nil hq
  have hcount := h.counters (live_of_qW h hq)
  obtain ⟨tw, tr, -, -, hqW, -, hpW, -, hRsR, hRWs, -, hWRs⟩ := countersOk_totals hcount
  obtain ⟨-, -, -, hr, -⟩ := hcount
  obtain ⟨a, tw', rfl, rfl, -⟩ := List.map_eq_cons_iff.mp (hqW.symm.trans hcons)
  obtain ⟨hlt, hle⟩ := publicationsPending_head_le hpW
  rw [stepXW_of_queued hcross hcons]
  have hcap := hle.trans (hWRs.trans (Nat.add_le_add_right hRsR _))
  exact hlt.trans_eq (totalWs_eq_of_wrSeen (s := { s with wrSeen := wrOfTotal s.cap a, qW := rest }) hr rfl
    (hRWs.trans hlt.le) hcap).symm

/-- A delivery takes the producer's snapshot forward (R47, R48). -/
theorem totalRs_lt_stepXR (h : s.Inv) (hcross : s.cfg.crossing = .async) (hq : s.qR ≠ []) :
    s.totalRs < s.stepXR.totalRs := by
  obtain ⟨v, rest, hcons⟩ := List.exists_cons_of_ne_nil hq
  have hcount := h.counters (live_of_qR h hq)
  obtain ⟨tw, tr, -, -, -, hqR, -, hpR, -, hRWs, hWsW, hWRs⟩ := countersOk_totals hcount
  obtain ⟨-, -, hw, -⟩ := hcount
  obtain ⟨a, tr', rfl, rfl, -⟩ := List.map_eq_cons_iff.mp (hqR.symm.trans hcons)
  obtain ⟨hlt, hle⟩ := publicationsPending_head_le hpR
  rw [stepXR_of_queued hcross hcons]
  have hcap := hWRs.trans (Nat.add_le_add_right hlt.le _)
  exact hlt.trans_eq (totalRs_eq_of_rdSeen (s := { s with rdSeen := rdOfTotal s.cap a, qR := rest }) hw rfl
    (hle.trans (hRWs.trans hWsW)) hcap).symm

/-! ## No total goes back (R48) -/

/-- No total of `t` is less than that of `s`. -/
structure State.TotalsLe (s t : State) : Prop where
  totalWs : s.totalWs ≤ t.totalWs
  totalRs : s.totalRs ≤ t.totalRs
  totalW : s.totalW ≤ t.totalW
  totalR : s.totalR ≤ t.totalR

namespace State.TotalsLe

theorem refl (s : State) : s.TotalsLe s := ⟨le_rfl, le_rfl, le_rfl, le_rfl⟩

/-- The totals are computed from the buffer. -/
theorem trans_same {u : State} (h : s.TotalsLe u) (hsame : u.SameBuffer t) : s.TotalsLe t := by
  obtain ⟨hcfg, hcap, hw, hr, -, hrs, hws, -, -, hacc, hdel⟩ := hsame
  have hcap' : t.cap = u.cap := congrArg (2 ^ ·.toNat) hcap
  have hoccC : t.occConsumer = u.occConsumer := by simp only [occConsumer, sampleWr, hcap', hws, hr]
  have hoccP : t.occProducer = u.occProducer := by simp only [occProducer, sampleRd, hcap', hrs, hw]
  have hW : t.totalW = u.totalW := congrArg List.length hacc
  have hR : t.totalR = u.totalR := congrArg List.length hdel
  refine ⟨?_, ?_, hW ▸ h.totalW, hR ▸ h.totalR⟩
  · simpa only [State.totalWs, hoccC, hR] using h.totalWs
  · simpa only [State.totalRs, hoccP, hW] using h.totalRs

end State.TotalsLe

theorem totalsLe_stepXW (h : s.Inv) : s.TotalsLe s.stepXW := by
  obtain ⟨v, rest, hcross, hq, heq⟩ | ⟨-, heq⟩ := stepXW_cases s
  · have hlt := totalWs_lt_stepXW h hcross (by simp [hq])
    rw [heq] at hlt ⊢
    exact ⟨hlt.le, le_rfl, le_rfl, le_rfl⟩
  · rw [heq]
    exact .refl s

theorem totalsLe_stepXR (h : s.Inv) : s.TotalsLe s.stepXR := by
  obtain ⟨v, rest, hcross, hq, heq⟩ | ⟨-, heq⟩ := stepXR_cases s
  · have hlt := totalRs_lt_stepXR h hcross (by simp [hq])
    rw [heq] at hlt ⊢
    exact ⟨le_rfl, hlt.le, le_rfl, le_rfl⟩
  · rw [heq]
    exact .refl s

/-- A WRITE does not look at what the producer has seen read. -/
theorem afterWrite_totalRs {len : Nat} (h : s.Inv) (hlive : s.live = true) (hpay : s.prod.payload.length = len)
    (hn : s.writeCount len ≠ 0) : (s.afterWrite len).totalRs = s.totalRs := by
  have hcount := h.counters hlive
  have hcount' := (h.afterWrite hlive hpay hn).counters (by simpa using hlive)
  obtain ⟨-, -, hw, -⟩ := hcount'
  obtain ⟨-, -, -, hrs, -, -, -, -, hRsR, hRWs, hWsW, -⟩ := countersOk_totals hcount
  have hroom := totalW_add_writeCount_le hcount len
  refine totalRs_eq_of_rdSeen hw (by simpa using hrs) ?_ ?_
  · rw [State.afterWrite_totalW hpay]
    omega
  · rwa [State.afterWrite_totalW hpay, State.afterWrite_cap]

theorem totalsLe_afterWrite {len : Nat} (h : s.Inv) (hlive : s.live = true) (hpay : s.prod.payload.length = len)
    (hn : s.writeCount len ≠ 0) : s.TotalsLe (s.afterWrite len) := by
  have hW : s.totalW ≤ (s.afterWrite len).totalW := by simp [State.afterWrite_totalW hpay]
  refine ⟨?_, (afterWrite_totalRs h hlive hpay hn).ge, hW, by simp⟩
  cases hcross : s.cfg.crossing with
  | async => simp [State.totalWs, State.occConsumer, State.sampleWr, afterWrite_wrSeen_of_async hcross]
  | sync =>
    have h' := h.afterWrite hlive hpay hn
    rw [totalWs_eq_totalW_of_empty (h.counters hlive) (h.syncQueues hcross).1,
      totalWs_eq_totalW_of_empty (h'.counters (by simpa using hlive)) (h'.syncQueues (by simpa using hcross)).1]
    exact hW

/-- A READ does not look at what the consumer has not seen written. -/
theorem afterRead_totalWs {len : Nat} (h : s.Inv) (hlive : s.live = true) (hn : s.readCount len ≠ 0) :
    (s.afterRead len).totalWs = s.totalWs := by
  have hcount := h.counters hlive
  have hcount' := (h.afterRead hlive hn).counters (by simpa using hlive)
  obtain ⟨-, -, -, hr, -⟩ := hcount'
  obtain ⟨-, -, hws, -, -, -, -, -, hRsR, -, hWsW, hWRs⟩ := countersOk_totals hcount
  have hmoved := totalR_add_readCount_le s len
  refine totalWs_eq_of_wrSeen hr (by simpa using hws) ?_ ?_
  · rwa [State.afterRead_totalR]
  · rw [State.afterRead_totalR, State.afterRead_cap]
    omega

theorem totalsLe_afterRead {len : Nat} (h : s.Inv) (hlive : s.live = true) (hn : s.readCount len ≠ 0) :
    s.TotalsLe (s.afterRead len) := by
  have hR : s.totalR ≤ (s.afterRead len).totalR := by simp
  refine ⟨(afterRead_totalWs h hlive hn).ge, ?_, by simp, hR⟩
  cases hcross : s.cfg.crossing with
  | async => simp [State.totalRs, State.occProducer, State.sampleRd, afterRead_rdSeen_of_async hcross]
  | sync =>
    have h' := h.afterRead hlive hn
    rw [totalRs_eq_totalR_of_empty (h.counters hlive) (h.syncQueues hcross).2,
      totalRs_eq_totalR_of_empty (h'.counters (by simpa using hlive)) (h'.syncQueues (by simpa using hcross)).2]
    exact hR

theorem BufferEvent.totalsLe (hb : BufferEvent s t e) (h : s.Inv) (hlive : s.live = true) : s.TotalsLe t := by
  cases hb with
  | unchanged same => exact (State.TotalsLe.refl s).trans_same same
  | xw same => exact (totalsLe_stepXW h).trans_same same
  | xr same => exact (totalsLe_stepXR h).trans_same same
  | write payload moved same => exact (totalsLe_afterWrite h hlive payload moved).trans_same same
  | read moved same => exact (totalsLe_afterRead h hlive moved).trans_same same

theorem step_totalsLe (h : s.Inv) (hlive : s.live = true) (hs : step s = .next t) (hlive' : t.live = true) :
    s.TotalsLe t := by
  obtain ⟨-, -, ⟨-, rfl⟩ | ⟨e, rest, -, he⟩⟩ := step_cases hs
  · exact .refl _
  · have hle := (runEvent_buffer (s := { s with agenda := rest }) hlive he hlive').totalsLe (h.withAgenda rest) hlive
    exact ⟨hle.totalWs, hle.totalRs, hle.totalW, hle.totalR⟩

/-- Settles O39: a delivery and a publication raise a total, and nothing lowers one. -/
theorem snapshotsAreMonotone : Obligations.SnapshotsAreMonotone := by
  intro s t h hlive hs hlive'
  have hle := step_totalsLe h hlive hs hlive'
  exact ⟨hle.totalWs, hle.totalRs, hle.totalW, hle.totalR⟩

end Sys2Proof.Machine
end
section
/-! A run under a schedule along which the buffer lives on (R52): its totals only rise, and a fair delivery takes a
snapshot forward for as long as it lags. -/

namespace Sys2Proof.Machine

/-- Weak fairness of a delivery (R52): it is taken if the queue holds a value for ever, and it takes the snapshot
forward. So a snapshot below a target that keeps the queue from being empty comes up to it. -/
theorem eventually_delivered {seen : Nat → Nat} {holds fires : Nat → Prop} {k target : Nat} (hmono : Monotone seen)
    (hpending : ∀ j, k ≤ j → seen j < target → holds j)
    (hfair : ∀ i, (∀ j, i ≤ j → holds j) → ∃ j, i ≤ j ∧ fires j)
    (hdeliver : ∀ j, fires j → holds j → seen j < seen (j + 1)) : ∃ j, k ≤ j ∧ target ≤ seen j := by
  induction hgap : target - seen k using Nat.strong_induction_on generalizing k with
  | _ gap ih =>
    by_contra hnever
    push Not at hnever
    have hholds : ∀ j, k ≤ j → holds j := fun j hkj => hpending j hkj (hnever j hkj)
    obtain ⟨j, hkj, hfires⟩ := hfair k hholds
    have hrise := (hmono hkj).trans_lt (hdeliver j hfires (hholds j hkj))
    have hbelow := hnever (j + 1) (by omega)
    obtain ⟨l, hjl, hreached⟩ :=
      ih (target - seen (j + 1)) (by omega) (fun l hl => hpending l (by omega)) rfl
    exact absurd hreached (Nat.not_le.mpr (hnever l (by omega)))

/-! ## The states of a run -/

theorem runUnder_succ_cases {σ : Schedule} {k : Nat} {s u : State} (h : runUnder σ (k + 1) s = .next u) :
    ∃ t, runUnder σ k s = .next t ∧ step { t with agenda := [σ k] } = .next u := by
  unfold runUnder at h
  split at h
  · rename_i t ht
    exact ⟨t, ht, h⟩
  · rename_i hne
    exact absurd h (hne u)

section LiveRun

variable {σ : Schedule} {s : State} {run : Nat → State} (hrun : ∀ k, runUnder σ k s = .next (run k))
include hrun

theorem step_run (k : Nat) : step { run k with agenda := [σ k] } = .next (run (k + 1)) := by
  obtain ⟨t, ht, hs⟩ := runUnder_succ_cases (hrun (k + 1))
  exact Host.Outcome.next.inj ((hrun k).symm.trans ht) ▸ hs

theorem run_zero : run 0 = s := Host.Outcome.next.inj (hrun 0).symm

theorem run_inv (h : s.Inv) (k : Nat) : (run k).Inv := by
  induction k with
  | zero => exact run_zero hrun ▸ h
  | succ k ih => exact (ih.withAgenda [σ k]).step (step_run hrun k)

theorem queueHolds_iff (queue : State → List Nat) (k : Nat) : queueHolds σ s queue k ↔ queue (run k) ≠ [] := by
  refine ⟨fun ⟨t, ht, hq⟩ => ?_, fun hq => ⟨_, hrun k, hq⟩⟩
  rwa [Host.Outcome.next.inj ((hrun k).symm.trans ht)]

/-- An event that delivers moves the run to the state after the delivery. -/
theorem run_succ_of_agent {k : Nat} {a : Agent} (ha : σ k = .agent a) :
    State.agentStep { run k with agenda := [] } a = .next (run (k + 1)) :=
  runEvent_of_step (s := { run k with agenda := [σ k] }) (congrArg ([·]) ha) (step_run hrun k)

variable (hlive : ∀ k, (run k).live = true)
include hlive

theorem run_cfg (k : Nat) : (run k).cfg = s.cfg := by
  induction k with
  | zero => rw [run_zero hrun]
  | succ k ih =>
    obtain ⟨-, hcfg, -⟩ := capacityIsImmutableWhileLive { run k with agenda := [σ k] } _ (hlive k)
      (step_run hrun k) (hlive (k + 1))
    exact hcfg.trans ih

variable (h : s.Inv)
include h

theorem run_totalsLe (k : Nat) : (run k).TotalsLe (run (k + 1)) := by
  have hle := step_totalsLe ((run_inv hrun h k).withAgenda [σ k]) (hlive k) (step_run hrun k) (hlive (k + 1))
  exact ⟨hle.totalWs, hle.totalRs, hle.totalW, hle.totalR⟩

variable (hcross : s.cfg.crossing = .async) (hfair : crossingFair σ s)
include hcross hfair

/-- What the producer has published by step `k` the consumer comes to see. -/
theorem totalW_eventually_seen (k : Nat) : ∃ j, k ≤ j ∧ (run k).totalW ≤ (run j).totalWs := by
  refine eventually_delivered (holds := queueHolds σ s State.qW) (fires := fun j => σ j = .agent .xw)
    (monotone_nat_of_le_succ fun j => (run_totalsLe hrun hlive h j).totalWs) (fun j hkj hlag => ?_)
    (fun i => (hfair i).1) (fun j hxw hholds => ?_)
  · have hle := monotone_nat_of_le_succ (fun j => (run_totalsLe hrun hlive h j).totalW) hkj
    refine (queueHolds_iff hrun _ j).mpr fun hempty => ?_
    have := totalWs_eq_totalW_of_empty ((run_inv hrun h j).counters (hlive j)) hempty
    omega
  · rw [← Host.Outcome.next.inj (run_succ_of_agent hrun hxw)]
    exact totalWs_lt_stepXW ((run_inv hrun h j).withAgenda []) (run_cfg hrun hlive j ▸ hcross)
      ((queueHolds_iff hrun _ j).mp hholds)

/-- What the consumer has published by step `k` the producer comes to see. -/
theorem totalR_eventually_seen (k : Nat) : ∃ j, k ≤ j ∧ (run k).totalR ≤ (run j).totalRs := by
  refine eventually_delivered (holds := queueHolds σ s State.qR) (fires := fun j => σ j = .agent .xr)
    (monotone_nat_of_le_succ fun j => (run_totalsLe hrun hlive h j).totalRs) (fun j hkj hlag => ?_)
    (fun i => (hfair i).2) (fun j hxr hholds => ?_)
  · have hle := monotone_nat_of_le_succ (fun j => (run_totalsLe hrun hlive h j).totalR) hkj
    refine (queueHolds_iff hrun _ j).mpr fun hempty => ?_
    have := totalRs_eq_totalR_of_empty ((run_inv hrun h j).counters (hlive j)) hempty
    omega
  · rw [← Host.Outcome.next.inj (run_succ_of_agent hrun hxr)]
    exact totalRs_lt_stepXR ((run_inv hrun h j).withAgenda []) (run_cfg hrun hlive j ▸ hcross)
      ((queueHolds_iff hrun _ j).mp hholds)

end LiveRun

/-- Settles O41: a snapshot that lags has a value under way, which a fair schedule delivers. -/
theorem everyPublicationIsEventuallyDelivered : Obligations.EveryPublicationIsEventuallyDelivered := by
  intro σ s h hcross hfair hlives k t ht
  choose run hrun hlive using hlives
  obtain rfl := Host.Outcome.next.inj ((hrun k).symm.trans ht)
  obtain ⟨j, hkj, hW⟩ := totalW_eventually_seen hrun hlive h hcross hfair k
  obtain ⟨l, hkl, hR⟩ := totalR_eventually_seen hrun hlive h hcross hfair k
  exact ⟨⟨j, run j, hkj, hrun j, hW⟩, ⟨l, run l, hkl, hrun l, hR⟩⟩

end Sys2Proof.Machine
end

section
/-! Which words decode, and to what: exactly the encodings, on the port of their command (R61 to R65, R69). -/

namespace Sys2Proof

variable {p : Port} {w : Word} {i : Instr}

/-! ## The decoder of a port, from the part that does not look at the port -/

theorem decode_of_decodeWord (h : decodeWord w = .ok i) : decode i.port w = .ok i := by simp [decode, h]

theorem decode_of_wrong_port (h : decodeWord w = .ok i) (hp : p ≠ i.port) : decode p w = .error .wrongPort := by
  simp [decode, h, hp]

theorem decode_of_illegal {e : Illegal} (h : decodeWord w = .error e) : decode p w = .error e := by simp [decode, h]

/-- A word is rejected on every port when it is illegal before any look at the port: a legal one has its port. -/
theorem rejected_iff : (∀ p, ∃ e, decode p w = .error e) ↔ ∃ e, decodeWord w = .error e := by
  constructor
  · intro hall
    cases hdec : decodeWord w with
    | error e => exact ⟨e, rfl⟩
    | ok i =>
      obtain ⟨e, he⟩ := hall i.port
      exact absurd ((decode_of_decodeWord hdec).symm.trans he) nofun
  · rintro ⟨e, he⟩ p
    exact ⟨e, decode_of_illegal he⟩

/-! ## Decoding and encoding are inverse -/

theorem decodeWord_encode (h : i.wellFormed = true) : decodeWord (encode i) = .ok i := by
  cases i with
  | release => rfl
  | capq => rfl
  | create arg | write arg | read arg =>
    have harg : arg < 2 ^ 24 := of_decide_eq_true h
    simpa [decodeWord, encode, Instr.opcode, Instr.arg] using harg

/-- The argument field has 24 bits, so what it decodes to fits (R62). -/
theorem wellFormed_of_decodeWord (h : decodeWord w = .ok i) : i.wellFormed = true := by
  have hfits : argFits (argField w).toNat := (argField w).isLt
  unfold decodeWord at h
  split_ifs at h with hrsvd hcreate hrelease harg hcapq harg hwrite hread <;> cases h
  · exact decide_eq_true hfits
  · rfl
  · rfl
  · exact decide_eq_true hfits
  · exact decide_eq_true hfits

theorem decode_eq_ok_iff : decode p w = .ok i ↔ encode i = w ∧ i.port = p ∧ i.wellFormed = true := by
  constructor
  · intro h
    have hword := decodeWord_of_decode h
    exact ⟨encode_of_decodeWord hword, Machine.port_of_decode h, wellFormed_of_decodeWord hword⟩
  · rintro ⟨rfl, rfl, hwf⟩
    exact decode_of_decodeWord (decodeWord_encode hwf)

/-- Settles O1: the fields of the encoding are the opcode, 0 and the argument, and the port is looked at last. -/
theorem encodedCommandDecodesOnItsPortOnly : Obligations.EncodedCommandDecodesOnItsPortOnly := by
  intro i hwf
  have hword := decodeWord_encode hwf
  exact ⟨decode_of_decodeWord hword, fun p hp => decode_of_wrong_port hword hp⟩

/-- Settles O2: a word is its fields, and the fields of a word that decodes are those of an encoding. -/
theorem decodedWordIsTheEncodingOfItsCommand : Obligations.DecodedWordIsTheEncodingOfItsCommand :=
  fun _ _ _ h => decode_eq_ok_iff.mp h

/-! ## The reserved encodings (R65) -/

/-- The three ways of R65 in which a word is illegal on every port. -/
abbrev reservedEncoding (w : Word) : Prop :=
  (opField w = 0x0#4 ∨ 6 ≤ (opField w).toNat) ∨ rsvdField w ≠ 0#4 ∨
    ((opField w = 0x2#4 ∨ opField w = 0x3#4) ∧ argField w ≠ 0#24)

theorem not_reservedEncoding_encode (i : Instr) : ¬ reservedEncoding (encode i) := by
  cases i <;> simp [reservedEncoding, encode, Instr.opcode, Instr.arg]

theorem reservedEncoding_of_illegal {e : Illegal} (h : decodeWord w = .error e) : reservedEncoding w := by
  unfold decodeWord at h
  split_ifs at h with hrsvd hcreate hrelease harg hcapq harg hwrite hread
  · exact .inr (.inl hrsvd)
  · exact .inr (.inr ⟨.inl hrelease, harg⟩)
  · exact .inr (.inr ⟨.inr hcapq, harg⟩)
  · exact .inl (by bv_omega)

theorem illegal_iff_reservedEncoding : (∃ e, decodeWord w = .error e) ↔ reservedEncoding w := by
  refine ⟨fun ⟨e, he⟩ => reservedEncoding_of_illegal he, fun hres => ?_⟩
  cases hdec : decodeWord w with
  | error e => exact ⟨e, rfl⟩
  | ok i => exact absurd (encode_of_decodeWord hdec ▸ hres) (not_reservedEncoding_encode i)

end Sys2Proof

namespace Sys2Proof.Machine

/-- The step of an execution whose word is rejected answers ILLEGAL 0 there and changes nothing else (R125). -/
theorem step_of_illegal {s : State} {p : Port} {rest : List Event} {tr : Transaction} {e : Illegal} (hmark : s.unmarked)
    (hag : s.agenda = .execute p :: rest) (hbusy : (s.port p).state = .busy tr) (hdec : decode p tr.word = .error e) :
    step s = .next (State.setPort { s with agenda := rest } p ((s.port p).answered 0x30000000#32 [])) := by
  rw [step_event hmark.1 hmark.2 hag]
  exact executePort_of_illegal hbusy hdec

/-- Settles O3: a word is rejected before any look at the port exactly for R65's three reasons, and runs no command. -/
theorem illegalWordIsAnsweredAndChangesNothing : Obligations.IllegalWordIsAnsweredAndChangesNothing := by
  refine ⟨fun w => rejected_iff.trans illegal_iff_reservedEncoding, ?_⟩
  intro s p rest tr hmark hag hbusy hres
  obtain ⟨e, he⟩ := illegal_iff_reservedEncoding.mpr hres
  exact step_of_illegal hmark hag hbusy (decode_of_illegal he)

/-- Settles O4: a word of another port's command is rejected, and so answered like a reserved one. -/
theorem wrongPortIsAnsweredIllegal : Obligations.WrongPortIsAnsweredIllegal := by
  intro s p rest tr i hmark hag hbusy hword hport
  exact step_of_illegal hmark hag hbusy (decode_of_wrong_port hword hport.symm)

/-- Settles O5: the legal words and the lines compute, and each of the four illegal words is a reserved encoding. -/
theorem workedEncodingsDecode : Obligations.WorkedEncodingsDecode := by
  have hreserved : ∀ w ∈ [0x00000000#32, 0x61000000#32, 0x41000004#32, 0x20000001#32], reservedEncoding w := by
    simp only [List.forall_mem_cons, List.not_mem_nil, false_imp_iff, implies_true, and_true]
    exact ⟨.inl (.inl rfl), .inl (.inr (by decide)), .inr (.inl (by decide)), .inr (.inr ⟨.inl rfl, by decide⟩)⟩
  exact ⟨rfl, rfl, rfl, rfl, rfl, rfl, rfl, rfl, rfl,
    fun w hw => rejected_iff.mpr (illegal_iff_reservedEncoding.mpr (hreserved w hw)), rfl, rfl, rfl, rfl⟩

/-! ## The payload rule (R68) -/

theorem transaction_wellFormed_iff {p : Port} {tr : Transaction} :
    tr.wellFormed p = true ↔ tr.payload.length = payloadLength p tr.word := decide_eq_true_iff

theorem payloadLength_encode_write {len : Nat} (hlen : len < 2 ^ 24) :
    payloadLength .prod (encode (.write len)) = len :=
  payloadLength_prod_write (decode_eq_ok_iff.mpr ⟨rfl, rfl, decide_eq_true hlen⟩)

theorem payloadLength_of_no_write {p : Port} {w : Word}
    (h : ∀ len, len < 2 ^ 24 → p = .prod → w ≠ encode (.write len)) : payloadLength p w = 0 := by
  unfold payloadLength
  split
  · rename_i len hdec
    obtain ⟨hw, hp, hwf⟩ := decode_eq_ok_iff.mp hdec
    exact absurd hw.symm (h len (of_decide_eq_true hwf) hp.symm)
  · rfl

/-- Settles O11: the word is the encoding of a WRITE on PROD, whose length the payload has, or it takes no payload. -/
theorem payloadRuleSaysWhatIsWellFormed : Obligations.PayloadRuleSaysWhatIsWellFormed := by
  intro p tr
  rw [transaction_wellFormed_iff]
  constructor
  · intro hpay
    by_cases hwrite : ∃ len, p = .prod ∧ len < 2 ^ 24 ∧ tr.word = encode (.write len)
    · obtain ⟨len, rfl, hlen, hw⟩ := hwrite
      rw [hw, payloadLength_encode_write hlen] at hpay
      exact .inl ⟨len, rfl, hlen, hw, hpay⟩
    · have hno : ∀ len, len < 2 ^ 24 → p = .prod → tr.word ≠ encode (.write len) :=
        fun len hlen hp hw => hwrite ⟨len, hp, hlen, hw⟩
      rw [payloadLength_of_no_write hno] at hpay
      exact .inr ⟨hno, List.eq_nil_of_length_eq_zero hpay⟩
  · rintro (⟨len, rfl, hlen, hw, hpay⟩ | ⟨hno, hnil⟩)
    · rw [hw, payloadLength_encode_write hlen, hpay]
    · rw [payloadLength_of_no_write hno, hnil, List.length_nil]

end Sys2Proof.Machine
end

section
/-! How many data bytes a response carries (R68, R71), and the lines that stand for one command (R73). -/

namespace Sys2Proof.Machine

/-! ## The data rule (R68, R71) -/

/-- How many data bytes a response with this word carries on this port: its value for an OK on CONS, where READ is
answered, and none otherwise. -/
def dataLength (p : Port) (w : Word) : Nat :=
  if p = .cons ∧ w.extractLsb' 28 4 = 0x0#4 then (w.extractLsb' 0 24).toNat else 0

theorem dataLength_of_ne_cons {p : Port} {w : Word} (hp : p ≠ .cons) : dataLength p w = 0 := if_neg fun h => hp h.1

theorem dataLength_wouldBlock (p : Port) (v : Nat) : dataLength p (responseWord .wouldBlock v) = 0 := by
  simp [dataLength, Status.code]

theorem dataLength_illegal (p : Port) (v : Nat) : dataLength p (responseWord .illegal v) = 0 := by
  simp [dataLength, Status.code]

theorem dataLength_cons_ok {v : Nat} (hv : v < 2 ^ 24) : dataLength .cons (responseWord .ok v) = v := by
  simpa [dataLength, Status.code] using hv

/-- `t` has one response more than `s` on the port, with as many data bytes as the rule says. -/
def AnsweredByDataRule (s t : State) (p : Port) : Prop :=
  ∃ r : Response, t.port p = (s.port p).answered r.word r.data ∧ r.data.length = dataLength p r.word

theorem respond_byDataRule {s u : State} {p : Port} {st : Status} {v : Nat} {d : List Byte}
    (hport : u.port p = s.port p) (hd : d.length = dataLength p (responseWord st v)) :
    AnsweredByDataRule s (u.respond p st v d) p :=
  ⟨⟨responseWord st v, d⟩, (State.port_respond_same u p st v d).trans (hport ▸ rfl), hd⟩

theorem respond_byDataRule_of_ne_cons {s u : State} {p : Port} {st : Status} {v : Nat} (hp : p ≠ .cons)
    (hport : u.port p = s.port p) : AnsweredByDataRule s (u.respond p st v []) p :=
  respond_byDataRule hport (dataLength_of_ne_cons hp).symm

/-- The count a READ answers is at most its `len`, so the value field holds all of it (R62). -/
theorem execRead_byDataRule {s t : State} {len : Nat} (hlen : len < 2 ^ 24) (hs : execRead len s = .next t) :
    AnsweredByDataRule s t .cons := by
  obtain ⟨-, ⟨-, rfl⟩ | ⟨-, -, rfl⟩ | ⟨-, -, -, -, rfl⟩⟩ := execRead_cases hs
  · exact respond_byDataRule rfl (dataLength_cons_ok (by decide)).symm
  · exact respond_byDataRule rfl (dataLength_wouldBlock _ _).symm
  · have hcount : s.readCount len < 2 ^ 24 := Nat.lt_of_le_of_lt (Nat.min_le_right _ _) hlen
    exact respond_byDataRule (State.afterRead_port s len .cons)
      ((State.readBytes_length s len).trans (dataLength_cons_ok hcount).symm)

theorem exec_byDataRule {s t : State} {i : Instr} (hwf : i.wellFormed = true) (hs : exec i s = .next t) :
    AnsweredByDataRule s t i.port := by
  cases i with
  | create req =>
    obtain ⟨-, ⟨-, rfl⟩ | ⟨-, rfl⟩⟩ := execCreate_cases hs
    · exact respond_byDataRule_of_ne_cons nofun rfl
    · exact respond_byDataRule_of_ne_cons nofun rfl
  | release =>
    obtain ⟨-, -, -, rfl⟩ := execRelease_cases hs
    exact respond_byDataRule_of_ne_cons nofun rfl
  | capq =>
    obtain ⟨-, rfl⟩ := execCapq_cases hs
    exact respond_byDataRule_of_ne_cons nofun rfl
  | write len =>
    obtain ⟨-, -, ⟨-, rfl⟩ | ⟨-, -, -, rfl⟩ | ⟨-, -, -, -, rfl⟩⟩ := execWrite_cases hs
    · exact respond_byDataRule_of_ne_cons nofun rfl
    · exact respond_byDataRule_of_ne_cons nofun rfl
    · exact respond_byDataRule_of_ne_cons nofun (State.afterWrite_port s len .prod)
  | read len => exact execRead_byDataRule (of_decide_eq_true hwf) hs

theorem executePort_byDataRule {s t : State} {p : Port} {tr : Transaction} (hbusy : (s.port p).state = .busy tr)
    (hs : s.executePort p = .next t) : AnsweredByDataRule s t p := by
  obtain ⟨hidle, -⟩ | ⟨-, -, -, -, rfl⟩ | ⟨_, _, -, hdec, hexec⟩ := executePort_cases hs
  · exact absurd (hidle.symm.trans hbusy) nofun
  · exact respond_byDataRule rfl (dataLength_illegal _ _).symm
  · obtain ⟨-, rfl, hwf⟩ := decode_eq_ok_iff.mp hdec
    exact exec_byDataRule hwf hexec

/-- Settles O13: no answer but READ's carries data, and READ answers the count of the bytes it delivers. -/
theorem responseDataMatchesItsValue : Obligations.ResponseDataMatchesItsValue := by
  intro s t p rest tr _ hag hbusy hs
  exact executePort_byDataRule (s := { s with agenda := rest }) hbusy (runEvent_of_step hag hs)

/-! ## The pseudo-instructions (R73) -/

/-- The capacity of a live buffer fits the argument field, for `M` is at most 23 (R7, R9). -/
theorem cap_le_argument {s : State} (h : s.Inv) (hlive : s.live = true) : s.cap ≤ 0xFFFFFF :=
  calc s.cap ≤ s.storeSize := cap_le_storeSize (h.counters hlive)
    _ ≤ 2 ^ 23 := Nat.pow_le_pow_right (by decide) h.cfgOk.2
    _ ≤ 0xFFFFFF := by decide

/-- Settles O7: the lines compute, and no occupancy exceeds the capacity, nor the capacity what a drain asks for. -/
theorem pseudoInstructionsExpand : Obligations.PseudoInstructionsExpand := by
  have hput : encode (.write 1) = 0x40000001#32 := rfl
  refine ⟨fun b => Prod.ext rfl (congrArg (Transaction.mk · [b]) hput), fun bytes => rfl, rfl, rfl, rfl, rfl,
    fun s h hlive => ?_⟩
  exact Nat.min_eq_left ((occConsumer_le_cap (h.counters hlive)).trans (cap_le_argument h hlive))

end Sys2Proof.Machine
end

section
/-! The rounded capacity (R80), the buffer that CREATE constructs (R81, R85), and what CREATE and CAPQ answer in their
other cases (R82, R83, R84). -/

namespace Sys2Proof.Machine

/-! ## The rounded capacity (R80) -/

/-- Once `2^k` reaches `x`, the exponents from `k` on that reach `x` are all those from `k` on. -/
theorem le_iff_of_reached {k x j : Nat} (hx : x ≤ 2 ^ k) : k ≤ j ↔ k ≤ j ∧ x ≤ 2 ^ j :=
  (and_iff_left_of_imp fun hj => hx.trans (Nat.pow_le_pow_right (by decide) hj)).symm

/-- With fuel enough to reach `x`, the search from `k` answers the least exponent from `k` on that reaches it. -/
theorem leastExponent_le_iff {fuel k x j : Nat} (hfuel : x ≤ 2 ^ (k + fuel)) :
    leastExponent fuel k x ≤ j ↔ k ≤ j ∧ x ≤ 2 ^ j := by
  induction fuel generalizing k with
  | zero => exact le_iff_of_reached hfuel
  | succ fuel ih =>
    unfold leastExponent
    split
    · rename_i hx
      exact le_iff_of_reached hx
    · rename_i hx
      have hlater : x ≤ 2 ^ j → k < j := fun hj =>
        (Nat.pow_lt_pow_iff_right (by decide)).mp (Nat.lt_of_lt_of_le (Nat.lt_of_not_le hx) hj)
      rw [ih (hfuel.trans_eq (congrArg (2 ^ ·) (Nat.add_right_comm k fuel 1)))]
      exact ⟨fun ⟨hk, hj⟩ => ⟨Nat.le_of_succ_le hk, hj⟩, fun ⟨_, hj⟩ => ⟨hlater hj, hj⟩⟩

/-- The rounded capacity is the least power of two that reaches `max(req, 2)`, said of its exponent. -/
theorem capRoundLog2_le_iff {req k : Nat} : capRoundLog2 req ≤ k ↔ max req 2 ≤ 2 ^ k := by
  have hfuel : req ≤ 2 ^ (1 + req) :=
    Nat.lt_two_pow_self.le.trans (Nat.pow_le_pow_right (by decide) (Nat.le_add_left req 1))
  have htwo : 1 ≤ k ↔ 2 ≤ 2 ^ k := (Nat.pow_le_pow_iff_right Nat.one_lt_two).symm
  rw [capRoundLog2, leastExponent_le_iff hfuel, htwo, max_le_iff, and_comm]

theorem max_le_capRound (req : Nat) : max req 2 ≤ capRound req := capRoundLog2_le_iff.mp le_rfl

theorem capRound_le_two_pow {req k : Nat} (h : max req 2 ≤ 2 ^ k) : capRound req ≤ 2 ^ k :=
  Nat.pow_le_pow_right (by decide) (capRoundLog2_le_iff.mpr h)

theorem capRound_eq_two_pow {req k : Nat} (hlow : 2 ^ k < max req 2) (hup : max req 2 ≤ 2 ^ (k + 1)) :
    capRound req = 2 ^ (k + 1) := by
  have hlt : k < capRoundLog2 req :=
    Nat.lt_of_not_le fun hle => absurd (capRoundLog2_le_iff.mp hle) (Nat.not_le.mpr hlow)
  exact congrArg (2 ^ ·) (Nat.le_antisymm (capRoundLog2_le_iff.mpr hup) hlt)

/-- Settles O14: the least exponent gives the least power of two, and the listed values lie between two neighbours. -/
theorem capRoundIsTheLeastPowerOfTwo : Obligations.CapRoundIsTheLeastPowerOfTwo := by
  refine ⟨fun req => ⟨⟨capRoundLog2 req, rfl⟩, max_le_capRound req, fun _ => capRound_le_two_pow⟩, ?_⟩
  exact ⟨capRound_eq_two_pow (k := 0) (by decide) (by decide), capRound_eq_two_pow (k := 0) (by decide) (by decide),
    capRound_eq_two_pow (k := 0) (by decide) (by decide), capRound_eq_two_pow (k := 1) (by decide) (by decide),
    capRound_eq_two_pow (k := 2) (by decide) (by decide), capRound_eq_two_pow (k := 2) (by decide) (by decide),
    capRound_eq_two_pow (k := 3) (by decide) (by decide), capRound_eq_two_pow (k := 23) (by decide) (by decide)⟩

/-! ## The constructed buffer (R81, R85) -/

theorem log2_capRound (req : Nat) : Nat.log2 (capRound req) = capRoundLog2 req := Nat.log2_two_pow

/-- In a legal build a capacity that fits the store fits the value field of a response (R7, R66). -/
theorem lt_valueField_of_fits {cfg : Config} (hcfg : cfg.wf) {c : Nat} (hfit : c ≤ 2 ^ cfg.maxLog2) : c < 2 ^ 24 :=
  hfit.trans_lt (Nat.pow_lt_pow_right (by decide) (Nat.lt_succ_of_le hcfg.2))

/-- WR_PTR has room for twice a capacity that fits the store (R25). -/
theorem wrWidth_two_mul {cfg : Config} {c : Nat} (hc : 0 < c) (hfit : c ≤ 2 ^ cfg.maxLog2) :
    wrWidth cfg (2 * c) = 2 * c := by
  simpa [wrOfTotal] using wrWidth_wrOfTotal hc hfit 0

/-- A port whose outstanding command was withdrawn makes it outstanding again when its agent next issues (R21, R127). -/
theorem issue_of_withdrawn {s t : State} {p : Port} {tr : Transaction} (hbusy : (s.port p).state = .busy tr)
    (hwf : tr.wellFormed p = true) (hport : t.port p = (s.port p).withdrawn) :
    t.issue p = .next (t.setPort p (s.port p)) := by
  rw [State.withdrawn_busy hbusy] at hport
  rw [issue_of_wellFormed (congrArg PortUnit.state hport) (congrArg PortUnit.stream hport) hwf, hport, ← hbusy]

/-- Settles O15: no width cuts off a counter or the answer, and a withdrawn command is the next that its port issues. -/
theorem createConstructsTheInstance : Obligations.CreateConstructsTheInstance := by
  intro req s hcfg hdead hfit t
  have hwr : wrWidth s.cfg (2 * 2 ^ capRoundLog2 req) = 2 * capRound req := wrWidth_two_mul (two_pow_pos _) hfit
  have hword : responseWord .ok (capRound req) = BitVec.ofNat 32 (capRound req) :=
    responseWord_ok (lt_valueField_of_fits hcfg hfit)
  have hstate : (s.construct (capRoundLog2 req)).respond .ctrl .ok (capRound req) [] = t := by
    simp only [t, log2_capRound, ← hwr, ← hword]
    rfl
  refine ⟨(execCreate_of_fits hdead hfit).trans (congrArg _ hstate), fun p => ?_, fun p tr hp hbusy hwf => ?_⟩
  · cases p with
    | ctrl => rfl
    | prod => exact State.withdrawn_state _
    | cons => exact State.withdrawn_state _
  · refine issue_of_withdrawn hbusy hwf ?_
    cases p with
    | ctrl => exact absurd rfl hp
    | prod => rfl
    | cons => rfl

/-- A CREATE that answers a live state leaves counters that meet the invariant, whatever the state was (R141). -/
theorem countersOk_of_create {req : Nat} {s t : State} (hcfg : s.cfg.wf) (hs : exec (.create req) s = .next t)
    (hlive : t.live = true) : t.countersOk := by
  obtain ⟨hdead, ⟨-, rfl⟩ | ⟨hfit, rfl⟩⟩ := execCreate_cases hs
  · simp [hdead] at hlive
  · exact countersOk_construct hcfg (one_le_capRoundLog2 req) (capRound_le_storeSize.mp hfit)

/-- The counters of a live buffer lie in their ranges (R25, R26). -/
theorem counters_in_range {s : State} (h : s.countersOk) :
    2 * s.cap ≤ s.wrPtr ∧ s.wrPtr < 4 * s.cap ∧ s.rdPtr < 2 * s.cap := by
  obtain ⟨-, -, hw, hr, -⟩ := h
  obtain ⟨hlow, hhigh⟩ := wrOfTotal_range (cap_pos s) s.totalW
  rw [hw, hr]
  exact ⟨hlow, hhigh, rdOfTotal_lt (cap_pos s) _⟩

/-- Settles O18: a new buffer has both totals 0, and the range of WR_PTR begins where that of RD_PTR ends. -/
theorem newInstanceIsEmptyAndWritePointerStaysAhead : Obligations.NewInstanceIsEmptyAndWritePointerStaysAhead := by
  refine ⟨fun req s t hcfg hs hlive => ?_, fun s h hlive => ?_⟩
  · have hcount := countersOk_of_create hcfg hs hlive
    obtain ⟨hW, hR⟩ := totals_zero_of_create hs hlive
    obtain ⟨hocc, -, -⟩ := occ_eq_sub hcount
    have hrange := counters_in_range hcount
    obtain ⟨-, -, hw, hr, -⟩ := hcount
    rw [hW] at hw hocc
    rw [hR] at hr
    exact ⟨by omega, by simpa [rdOfTotal] using hr, by simpa [wrOfTotal] using hw, hrange⟩
  · obtain ⟨hlow, hhigh, hrd⟩ := counters_in_range (h.counters hlive)
    exact ⟨by omega, by omega⟩

/-! ## The other answers (R82, R83, R84) -/

/-- Settles O16: the answer to a capacity past the store is delivered in the state as it was. -/
theorem createFailsExactlyWhenTooLarge : Obligations.CreateFailsExactlyWhenTooLarge := by
  refine fun req s hdead => ⟨fun hbig => ?_, fun hfit => ?_⟩
  · exact execCreate_of_large hdead hbig
  · exact ⟨_, execCreate_of_fits hdead hfit, rfl⟩

/-- Settles O17: LIVE is looked at before the request. -/
theorem createWhileLiveFaults : Obligations.CreateWhileLiveFaults := fun _ _ hlive => execCreate_of_live hlive

/-- Settles O19: a capacity of exponent at most 23 fits the value field, so the answer is the capacity itself. -/
theorem capqAnswersTheCapacity : Obligations.CapqAnswersTheCapacity := by
  refine fun s => ⟨fun hlive hexp => ?_, fun hdead => execCapq_of_not_live hdead⟩
  have hword : responseWord .ok s.cap = BitVec.ofNat 32 (2 ^ s.capLog2.toNat) :=
    responseWord_ok (Nat.pow_lt_pow_right (by decide) (Nat.lt_succ_of_le hexp))
  rw [← hword]
  exact execCapq_of_live hlive

end Sys2Proof.Machine
end

section
/-! WRITE as the producer sees it (R91 to R96): what each of its answers is as a whole next state, the fold of its
counter, and the place of its bytes in the accepted stream. -/

namespace Sys2Proof.Machine

/-! ## The write counter (R95) -/

/-- A counter in its range is the counter of itself as a total. -/
theorem wrOfTotal_of_range {c wp : Nat} (hlow : 2 * c ≤ wp) (hhigh : wp < 4 * c) : wrOfTotal c wp = wp := by
  rw [wrOfTotal, Nat.mod_eq_sub_mod hlow, Nat.mod_eq_of_lt (by omega)]
  omega

/-- The two cases of the fold agree with one formula. -/
theorem foldWr_eq_wrOfTotal {c wp n : Nat} (hlow : 2 * c ≤ wp) (hhigh : wp < 4 * c) (hn : n ≤ c) :
    foldWr c wp n = wrOfTotal c (wp + n) := by
  rw [← foldWr_wrOfTotal wp (by omega) hn, wrOfTotal_of_range hlow hhigh]

/-- WR_PTR holds the folded counter uncut when the capacity fits the store (R9, R25). -/
theorem wrWidth_foldWr {s : State} (hfit : s.cap ≤ s.storeSize) (hlow : 2 * s.cap ≤ s.wrPtr) (hhigh : s.wrPtr < 4 * s.cap)
    (len : Nat) : wrWidth s.cfg (foldWr s.cap s.wrPtr (s.writeCount len)) = foldWr s.cap s.wrPtr (s.writeCount len) := by
  rw [foldWr_eq_wrOfTotal hlow hhigh (writeCount_le_cap s len)]
  exact wrWidth_wrOfTotal (cap_pos s) hfit _

/-- A WRITE that answers a next state and moves bytes is the one that stores and publishes (R91). -/
theorem execWrite_moves {s t : State} {len : Nat} (hs : execWrite len s = .next t) (hn : 1 ≤ s.writeCount len) :
    t = (s.afterWrite len).respond .prod .ok (s.writeCount len) [] := by
  have hlen : s.writeCount len ≤ len := Nat.min_le_right _ _
  have hfree : s.writeCount len ≤ s.freeProducer := Nat.min_le_left _ _
  obtain ⟨-, -, ⟨hzero, -⟩ | ⟨-, -, hfull, -⟩ | ⟨-, -, -, -, ht⟩⟩ := execWrite_cases hs
  · omega
  · omega
  · exact ht

/-- Settles O25: both cases of the fold are the counter of the total `wp + n`, which no width cuts. -/
theorem writeCounterFolds : Obligations.WriteCounterFolds := by
  refine ⟨fun c wp n hlow hhigh hpos hn => ?_, fun s t len h hs hn => ?_⟩
  · have hfold := foldWr_eq_wrOfTotal hlow hhigh hn
    obtain ⟨hge, hlt⟩ := wrOfTotal_range (show 0 < c by omega) (wp + n)
    rw [← hfold] at hge hlt
    exact ⟨fun hbelow => if_neg (Nat.not_le.mpr hbelow), fun hreach => if_pos hreach, hfold, hge, hlt,
      hfold ▸ wrOfTotal_mod c (wp + n)⟩
  · obtain ⟨-, hlive, -⟩ := execWrite_cases hs
    have hcount := h.counters hlive
    obtain ⟨hlow, hhigh, -⟩ := counters_in_range hcount
    rw [execWrite_moves hs hn, State.respond_wrPtr, State.afterWrite, State.publishWr_wrPtr]
    exact wrWidth_foldWr (cap_le_storeSize hcount) hlow hhigh len

/-! ## The answers without a transfer (R90, R92, R93) -/

theorem payload_of_busy {u : PortUnit} {tr : Transaction} (h : u.state = .busy tr) : u.payload = tr.payload := by
  simp [PortUnit.payload, h]

/-- Settles O23: the length is looked at before the occupancy. -/
theorem zeroLengthWriteIsANoOp : Obligations.ZeroLengthWriteIsANoOp := by
  intro s tr hlive hbusy hempty
  exact execWrite_of_zero (by simp [payload_of_busy hbusy, hempty]) hlive

/-- Settles O24: an occupancy of exactly the capacity is legal and leaves no space. -/
theorem fullWriteWouldBlock : Obligations.FullWriteWouldBlock := by
  intro s len tr hlive hbusy hpay hlen hfull
  have hocc : s.occProducer = s.cap := hfull
  have hfree : s.freeProducer = 0 := by simp [State.freeProducer, hocc]
  exact execWrite_of_full (payload_of_busy hbusy ▸ hpay) hlive (Nat.ne_of_gt hlen) hocc.le hfree

/-- Settles O26: the payload is the first thing that WRITE looks at. -/
theorem writeWithWrongPayloadIsRefused : Obligations.WriteWithWrongPayloadIsRefused :=
  fun _ _ hpay => execWrite_of_payload_ne hpay

/-! ## The transfer (R91, R94) -/

/-- What a publication of the write counter leaves in the crossing, for both kinds of it at once (R45). -/
theorem publishWr_eq (s : State) (v : Nat) : s.publishWr v = { s with
    wrPtr := wrWidth s.cfg v
    wrSeen := if s.cfg.crossing = .sync then wrWidth s.cfg v else s.wrSeen
    qW := if s.cfg.crossing = .sync then s.qW else s.qW ++ [wrWidth s.cfg v] } := by
  cases hcross : s.cfg.crossing with
  | async => simp [State.publishWr_async s v hcross]
  | sync => simp [State.publishWr_sync s v hcross]

/-- The bytes that a WRITE accepts read back at the offsets it stores them to (R40). -/
theorem read?_afterWrite {s : State} {len i : Nat} (hpay : s.prod.payload.length = len) (hi : i < s.writeCount len) :
    (s.afterWrite len).storage.read? ((s.wrPtr % s.cap + i) % s.cap) = s.prod.payload[i]? := by
  rw [State.afterWrite_storage, State.writeOffsets,
    read?_writeAll_transfer _ (writeCount_le_cap s len) (State.writeBytes_length hpay) hi, State.writeBytes,
    List.getElem?_take_of_lt hi]

/-- Settles O22: the capacity fits the store, so no offset is outside it and no width cuts the counter or the answer. -/
theorem writeStoresAndPublishes : Obligations.WriteStoresAndPublishes := by
  intro s len tr hcfg hlive hrange hbusy hpay hlen hocc c n v
  obtain ⟨hexp, hlow, hhigh, -⟩ := hrange
  have hfit : s.cap ≤ s.storeSize := Nat.pow_le_pow_right (by decide) hexp
  have hpayload : s.prod.payload = tr.payload := payload_of_busy hbusy
  have hpay' : s.prod.payload.length = len := hpayload ▸ hpay
  have hocc : s.occProducer < s.cap := hocc
  have hfree : s.freeProducer ≠ 0 := Nat.sub_ne_zero_of_lt hocc
  have hin : ∀ off ∈ s.writeOffsets len, off < s.storeSize :=
    fun off hoff => (transferOffsets_lt (cap_pos s) hoff).trans_le hfit
  have hv : wrWidth s.cfg (foldWr s.cap s.wrPtr (s.writeCount len)) = v :=
    (wrWidth_foldWr hfit hlow hhigh len).trans (foldWr_eq_wrOfTotal hlow hhigh (writeCount_le_cap s len))
  have hword : responseWord .ok n = BitVec.ofNat 32 n :=
    responseWord_ok (lt_valueField_of_fits hcfg ((writeCount_le_cap s len).trans hfit))
  refine ⟨(s.afterWrite len).storage, ?_, Nat.le_min.mpr ⟨Nat.pos_of_ne_zero hfree, hlen⟩, fun i hi => ?_,
    fun off hoff => ?_, fun hwf => ?_⟩
  · refine (execWrite_of_space hpay' hlive (Nat.ne_of_gt hlen) hocc.le hfree hin).trans ?_
    rw [publishWr_eq, hv, State.afterWrite_storage, State.writeBytes, hpayload, ← hword]
    rfl
  · rw [← hpayload]
    exact read?_afterWrite hpay' hi
  · rw [State.afterWrite_storage]
    refine read?_writeAll_of_not_mem _ fun hmem => ?_
    obtain ⟨i, hi, heq⟩ := mem_transferOffsets.mp hmem
    exact hoff i hi heq
  · rw [State.afterWrite_storage]
    exact Memory.writeAll_wf hwf _

/-! ## The accepted stream (R96) -/

/-- Settles O27: WR_PTR and `W` agree modulo `2c`, so they begin a transfer at the same offset. -/
theorem writeAppendsToTheAcceptedStream : Obligations.WriteAppendsToTheAcceptedStream := by
  intro s t len h hs
  obtain ⟨hpay, hlive, ⟨-, rfl⟩ | ⟨-, -, -, rfl⟩ | ⟨-, -, -, -, ht⟩⟩ := execWrite_cases hs
  · exact ⟨0, .ok, rfl, .inl rfl, Nat.zero_le _, by simp, by simp [State.totalW], nofun⟩
  · exact ⟨0, .wouldBlock, rfl, .inr ⟨rfl, rfl⟩, Nat.zero_le _, by simp, by simp [State.totalW], nofun⟩
  · have ht : t = (s.afterWrite len).respond .prod .ok (s.writeCount len) [] := ht
    subst ht
    refine ⟨s.writeCount len, .ok, ?_, .inl rfl, Nat.min_le_right _ _, ?_, ?_, fun i hi => ?_⟩
    · exact congrArg (PortUnit.answer · .ok (s.writeCount len) []) (State.afterWrite_port s len .prod)
    · exact State.afterWrite_accepted s len
    · exact State.afterWrite_totalW hpay
    · have hoff : s.wrPtr % s.cap = s.totalW % s.cap := mod_cap_of_mod_two_cap (wrPtr_mod_two_cap (h.counters hlive))
      rw [State.respond_storage, ← read?_afterWrite hpay hi, hoff, Nat.mod_add_mod]

end Sys2Proof.Machine
end

section
/-! READ as the consumer sees it (R101 to R105): what each of its answers is as a whole next state, the fold of its
counter, and the place of its bytes in the accepted stream; and the stream over a whole run. -/

namespace Sys2Proof.Machine

/-! ## The read counter (R104) -/

/-- The two cases of the fold agree with one formula. -/
theorem foldRd_eq_rdOfTotal {c rp n : Nat} (hrp : rp < 2 * c) (hn : n ≤ c) : foldRd c rp n = rdOfTotal c (rp + n) := by
  rw [← foldRd_rdOfTotal rp (by omega) hn, rdOfTotal, Nat.mod_eq_of_lt hrp]

/-- RD_PTR holds the folded counter uncut when the capacity fits the store (R9, R26). -/
theorem rdWidth_foldRd {s : State} {n : Nat} (hfit : s.cap ≤ s.storeSize) (hrp : s.rdPtr < 2 * s.cap)
    (hn : n ≤ s.cap) : rdWidth s.cfg (foldRd s.cap s.rdPtr n) = foldRd s.cap s.rdPtr n := by
  rw [foldRd_eq_rdOfTotal hrp hn]
  exact rdWidth_rdOfTotal (cap_pos s) hfit _

/-- A READ that answers a next state and moves bytes is the one that takes and publishes (R101). -/
theorem execRead_moves {s t : State} {len : Nat} (hs : execRead len s = .next t) (hn : 1 ≤ s.readCount len) :
    t = (s.afterRead len).respond .cons .ok (s.readCount len) (s.readBytes len) := by
  have hlen : s.readCount len ≤ len := Nat.min_le_right _ _
  have hseen : s.readCount len ≤ s.occConsumer := Nat.min_le_left _ _
  obtain ⟨-, ⟨hzero, -⟩ | ⟨-, hempty, -⟩ | ⟨-, -, -, -, ht⟩⟩ := execRead_cases hs
  · omega
  · omega
  · exact ht

/-- Settles O31: both cases of the fold are the counter of the total `rp + n`, which no width cuts. -/
theorem readCounterFolds : Obligations.ReadCounterFolds := by
  refine ⟨fun c rp n hrp _ hn => ?_, fun s t len h hs hn => ?_⟩
  · have hfold := foldRd_eq_rdOfTotal hrp hn
    exact ⟨fun hbelow => if_neg (Nat.not_le.mpr hbelow), fun hreach => if_pos hreach, hfold,
      hfold.trans_lt (rdOfTotal_lt (by omega) _)⟩
  · obtain ⟨hlive, -⟩ := execRead_cases hs
    have hcount := h.counters hlive
    obtain ⟨-, -, hrp⟩ := counters_in_range hcount
    rw [execRead_moves hs hn, State.respond_rdPtr, State.afterRead, State.publishRd_rdPtr]
    exact rdWidth_foldRd (s := s) (cap_le_storeSize hcount) hrp (readCount_le_cap hcount len)

/-! ## The answers without a transfer (R102, R103) -/

/-- Settles O29: the length is looked at before the occupancy. -/
theorem zeroLengthReadIsANoOp : Obligations.ZeroLengthReadIsANoOp := fun _ hlive => execRead_of_zero hlive

/-- Settles O30: what the snapshot shows is compared with 0 after the length. -/
theorem emptyReadWouldBlock : Obligations.EmptyReadWouldBlock :=
  fun _ _ hlive hlen hempty => execRead_of_empty hlive (Nat.ne_of_gt hlen) hempty

/-! ## The transfer (R101) -/

/-- What a publication of the read counter leaves in the crossing, for both kinds of it at once (R45). -/
theorem publishRd_eq (s : State) (v : Nat) : s.publishRd v = { s with
    rdPtr := rdWidth s.cfg v
    rdSeen := if s.cfg.crossing = .sync then rdWidth s.cfg v else s.rdSeen
    qR := if s.cfg.crossing = .sync then s.qR else s.qR ++ [rdWidth s.cfg v] } := by
  cases hcross : s.cfg.crossing with
  | async => simp [State.publishRd_async s v hcross]
  | sync => simp [State.publishRd_sync s v hcross]

/-- A byte listed at an offset of a READ is the one it takes from there (R40). -/
theorem getElem?_readBytes {s : State} {len i : Nat} {b : Byte} (hi : i < s.readCount len)
    (hb : s.storage.read? ((s.rdPtr % s.cap + i) % s.cap) = some b) : (s.readBytes len)[i]? = some b := by
  rw [Nat.mod_add_mod] at hb
  rw [List.getElem?_eq_getElem (by simpa using hi)]
  simp [State.readBytes, State.readOffsets, getElem_transferOffsets, Memory.byteAt_of_read? hb]

/-- Settles O28: the capacity fits the store, so no offset is outside it and no width cuts the counter or the answer. -/
theorem readDeliversAndPublishes : Obligations.ReadDeliversAndPublishes := by
  intro s len hcfg hlive hrange hlen hsome hocc c n v
  obtain ⟨hexp, -, -, hrp⟩ := hrange
  have hfit : s.cap ≤ s.storeSize := Nat.pow_le_pow_right (by decide) hexp
  have hn : s.readCount len ≤ s.cap := (Nat.min_le_left _ _).trans hocc
  have hin : ∀ off ∈ s.readOffsets len, off < s.storeSize :=
    fun off hoff => (transferOffsets_lt (cap_pos s) hoff).trans_le hfit
  have hv : rdWidth s.cfg (foldRd s.cap s.rdPtr (s.readCount len)) = v :=
    (rdWidth_foldRd hfit hrp hn).trans (foldRd_eq_rdOfTotal hrp hn)
  have hword : responseWord .ok n = BitVec.ofNat 32 n :=
    responseWord_ok (lt_valueField_of_fits hcfg (hn.trans hfit))
  refine ⟨s.readBytes len, ?_, Nat.le_min.mpr ⟨hsome, hlen⟩, State.readBytes_length s len,
    fun i hi b hb => getElem?_readBytes hi hb⟩
  refine (execRead_of_bytes hlive (Nat.ne_of_gt hlen) hocc (Nat.ne_of_gt hsome) hin).trans ?_
  rw [publishRd_eq, hv, ← hword]
  rfl

/-! ## The delivered stream (R105) -/

/-- Settles O32: the bytes at the offsets of a READ are the unread ones from ghost position `R` on. -/
theorem readDeliversTheNextAcceptedBytes : Obligations.ReadDeliversTheNextAcceptedBytes := by
  intro s t len h hs
  obtain ⟨hlive, hcases⟩ := execRead_cases hs
  have hcount := h.counters hlive
  obtain ⟨-, -, -, -, -, -, -, -, -, hRWs, hWsW, -⟩ := countersOk_totals hcount
  obtain ⟨-, rfl⟩ | ⟨-, -, rfl⟩ | ⟨-, -, -, -, ht⟩ := hcases
  · exact ⟨0, .ok, .inl rfl, Nat.zero_le _, rfl, (List.append_nil _).symm, rfl, hRWs, hWsW⟩
  · exact ⟨0, .wouldBlock, .inr ⟨rfl, rfl⟩, Nat.zero_le _, rfl, (List.append_nil _).symm, rfl, hRWs, hWsW⟩
  · have ht : t = (s.afterRead len).respond .cons .ok (s.readCount len) (s.readBytes len) := ht
    have hR : t.totalR = s.totalR + s.readCount len := ht ▸ State.afterRead_totalR s len
    have hbytes := readBytes_eq_take_drop hcount (h.bytes hlive) len
    refine ⟨s.readCount len, .ok, .inl rfl, Nat.min_le_right _ _, ?_, ?_, hR,
      hR.trans_le (totalR_add_readCount_le s len), hWsW⟩
    · rw [ht, ← hbytes]
      exact congrArg (PortUnit.answer · .ok (s.readCount len) (s.readBytes len)) (State.afterRead_port s len .cons)
    · rw [ht, ← hbytes]
      exact State.afterRead_delivered s len

/-- Settles O60: the invariant holds on every run, and its stream makes the delivered bytes a prefix. -/
theorem noByteIsLostOrReorderedOnAnyRun : Obligations.NoByteIsLostOrReorderedOnAnyRun := by
  intro cfg host prod cons agenda k s hcfg hrun
  have h := inv_of_run hcfg hrun
  have hprefix : s.delivered <+: s.accepted := List.prefix_iff_eq_take.mpr h.stream
  refine ⟨hprefix, hprefix.length_le, fun hlive => ?_⟩
  obtain ⟨-, -, hWR⟩ := occ_eq_sub (h.counters hlive)
  exact hWR

end Sys2Proof.Machine
end

section
/-! RELEASE as the agent on CTRL sees it (R110 to R112, R126): the end of the instance with what it frames, and the
order of the two faults. -/

namespace Sys2Proof.Machine

/-- Settles O20: the answer is delivered in the state without its instance, whose list of STORAGE is empty. -/
theorem releaseEndsTheInstance : Obligations.ReleaseEndsTheInstance := by
  intro s hlive hprod hcons
  have hread (off : Nat) : (s.dropInstance.respond .ctrl .ok 0 []).storage.read? off = none := by
    rw [State.respond_storage, State.dropInstance_storage, Memory.read?_nil]
  exact ⟨_, execRelease_of_idle hlive hprod hcons, rfl, rfl, rfl, hread, rfl, rfl, rfl, rfl, rfl, rfl, rfl, rfl, rfl⟩

/-- Settles O21: LIVE is looked at before the ports. -/
theorem releaseFaultsWhenMisused : Obligations.ReleaseFaultsWhenMisused :=
  fun _ => ⟨execRelease_of_not_live, execRelease_of_busy⟩

end Sys2Proof.Machine
end

section
/-! The commands that need an instance, while there is none (R124, R126, R143), and a second agent on a side that has
one (R131, R148). -/

namespace Sys2Proof.Machine

/-- Settles O33: LIVE is looked at before the length, and by WRITE after the payload alone. -/
theorem commandsFaultWithoutAnInstance : Obligations.CommandsFaultWithoutAnInstance :=
  fun _ hdead => ⟨fun _ hpay => execWrite_of_not_live hpay hdead, fun _ => execRead_of_not_live hdead,
    execCapq_of_not_live hdead⟩

/-- The step of an attempt to attach a second agent on a side is refused at that side's port (R131). -/
theorem step_attachSecond {s : State} {side : Side} {rest : List Event} (hmark : s.unmarked)
    (hag : s.agenda = .attachSecond side :: rest) : step s = .refused (.extraAgent (sidePort side)) :=
  step_event hmark.1 hmark.2 hag

/-- Settles O36: the port of the producer's side is PROD, and that of the consumer's side CONS. -/
theorem secondAgentIsRefused : Obligations.SecondAgentIsRefused :=
  fun _ _ hmark => ⟨step_attachSecond hmark, step_attachSecond hmark⟩

end Sys2Proof.Machine
end

section
/-! Reset and launch (R140, R142): what hardware reset leaves of a state, the invariant of a loaded reset state, and the
fresh state that one CREATE makes of the reset state. -/

namespace Sys2Proof.Machine

/-- Settles O54: hardware reset is enabled in every unmarked state, and touches the ports in their state alone. -/
theorem hardwareResetEndsTheInstance : Obligations.HardwareResetEndsTheInstance := by
  refine ⟨fun s rest hmark hag => ?_, fun s => ⟨rfl, rfl⟩⟩
  exact ⟨_, step_event hmark.1 hmark.2 hag, rfl, State.port_hardwareReset { s with agenda := rest }, rfl, rfl, rfl, rfl,
    rfl⟩

/-- Settles O57: the reset state of a legal build meets the invariant, which a launch keeps. -/
theorem invariantHoldsAtReset : Obligations.InvariantHoldsAtReset :=
  ⟨inv_resetWith (by decide), fun _ host prod cons agenda hcfg => (inv_resetWith hcfg).load host prod cons agenda⟩

/-! ## The fresh state (R142) -/

/-- What a CREATE that is answered OK makes of the reset state (R81, R142). -/
def freshState (cfg : Config) (req : Nat) : State :=
  ((State.resetWith cfg).construct (capRoundLog2 req)).respond .ctrl .ok (capRound req) []

variable {cfg : Config} {req : Nat}

theorem execCreate_resetWith (hfit : capRound req ≤ 2 ^ cfg.maxLog2) :
    execCreate req (State.resetWith cfg) = .next (freshState cfg req) := execCreate_of_fits rfl hfit

theorem fresh_of_fits (hfit : capRound req ≤ 2 ^ cfg.maxLog2) : State.fresh cfg req = some (freshState cfg req) := by
  rw [State.fresh, execCreate_resetWith hfit]
  rfl

/-- A request past the store leaves LIVE = 0 (R82). -/
theorem fresh_of_large (hbig : 2 ^ cfg.maxLog2 < capRound req) : State.fresh cfg req = none := by
  rw [State.fresh, execCreate_of_large (s := State.resetWith cfg) rfl hbig]
  rfl

theorem fresh_eq_some_iff {s : State} :
    State.fresh cfg req = some s ↔ capRound req ≤ 2 ^ cfg.maxLog2 ∧ s = freshState cfg req := by
  rcases Nat.lt_or_ge (2 ^ cfg.maxLog2) (capRound req) with hbig | hfit
  · simp [fresh_of_large hbig, Nat.not_le.mpr hbig]
  · simp [fresh_of_fits hfit, hfit, eq_comm]

theorem freshState_idle (p : Port) : ((freshState cfg req).port p).state = .idle := by cases p <;> rfl

theorem freshState_cap (hcfg : cfg.wf) (hfit : capRound req ≤ 2 ^ cfg.maxLog2) :
    (freshState cfg req).cap = capRound req :=
  cap_construct (s := State.resetWith cfg) hcfg (capRound_le_storeSize (s := State.resetWith cfg).mp hfit)

/-- Settles O56: there is a fresh state exactly if the request fits, and it is the one that CREATE constructs. -/
theorem freshInstanceIsAsTheRuleSays : Obligations.FreshInstanceIsAsTheRuleSays := by
  refine fun cfg req hcfg => ⟨⟨fun hfit => ⟨_, fresh_of_fits hfit⟩, fun ⟨s, hs⟩ => (fresh_eq_some_iff.mp hs).1⟩, ?_⟩
  intro s hs
  obtain ⟨hfit, rfl⟩ := fresh_eq_some_iff.mp hs
  exact ⟨rfl, freshState_cap hcfg hfit, freshState_idle, rfl, rfl, ⟨rfl, rfl⟩,
    (inv_resetWith hcfg).execCreate (execCreate_resetWith hfit)⟩

end Sys2Proof.Machine
end

section
/-! One READ that drains the buffer (R151): once the values under way are delivered, the consumer sees every accepted
byte, so that a READ of enough length takes all that are unread. -/

namespace Sys2Proof.Machine

/-! ## Runs in two parts -/

theorem run_add {M : Host.Core} {m : Nat} (n : Nat) {s u : M.State} (hrun : M.run m s = .next u) :
    M.run (m + n) s = M.run n u := by
  induction m generalizing s with
  | zero => rw [Nat.zero_add, Host.Outcome.next.inj hrun]
  | succ m ih =>
    obtain ⟨v, hv, hrest⟩ := run_succ_cases hrun
    rw [Nat.add_right_comm, Host.Core.run, hv]
    exact ih hrest

theorem run_one {M : Host.Core} {s t : M.State} (hs : M.step s = .next t) : M.run 1 s = .next t := by
  rw [Host.Core.run, hs]
  rfl

theorem run_snoc {M : Host.Core} {m : Nat} {s u t : M.State} (hrun : M.run m s = .next u) (hs : M.step u = .next t) :
    M.run (m + 1) s = .next t := (run_add 1 hrun).trans (run_one hs)

/-! ## The deliveries (R47) -/

/-- The state once XW has delivered all of Q_W, `seen` the last value, with `agenda` left to come. -/
def State.afterDeliveries (s : State) (seen : Nat) (agenda : List Event) : State :=
  { s with wrSeen := seen, qW := [], agenda := agenda }

/-- As many steps of XW as Q_W has values empty it and write WR_SEEN beside. -/
theorem run_deliveries {s : State} {agenda : List Event} (hmark : s.unmarked)
    (hcross : s.cfg.crossing = .async ∨ s.qW = [])
    (hag : s.agenda = List.replicate s.qW.length (.agent .xw) ++ agenda) :
    ∃ seen, core.run s.qW.length s = .next (s.afterDeliveries seen agenda) := by
  induction hq : s.qW generalizing s with
  | nil =>
    refine ⟨s.wrSeen, congrArg Host.Outcome.next ?_⟩
    rw [hq] at hag
    have hag : s.agenda = agenda := hag
    rw [State.afterDeliveries, ← hq, ← hag]
  | cons v q ih =>
    rw [hq] at hag hcross
    have hasync := hcross.resolve_right nofun
    have hag : s.agenda = .agent .xw :: (List.replicate q.length (.agent .xw) ++ agenda) := hag
    have hstep : core.step s = .next _ := (step_event hmark.1 hmark.2 hag).trans
      (congrArg Host.Outcome.next (stepXW_of_queued (s := { s with agenda := _ }) hasync hq))
    obtain ⟨seen, hrest⟩ := ih
      (s := { s with wrSeen := v, qW := q, agenda := List.replicate q.length (.agent .xw) ++ agenda })
      hmark (.inl hasync) rfl rfl
    refine ⟨seen, ?_⟩
    rw [List.length_cons, Nat.add_comm, run_add _ (run_one hstep)]
    exact hrest

/-! ## The READ (R101, R105) -/

/-- What was delivered with what was not is what was accepted (R105). -/
theorem delivered_append_unread {s : State} (h : s.streamOk) :
    s.delivered ++ s.accepted.drop s.totalR = s.accepted := by
  rw [h]
  exact List.take_append_drop _ _

/-- With nothing under way the consumer sees all that is unread. -/
theorem readCount_eq_unread {s : State} {len : Nat} (h : s.countersOk) (hq : s.qW = [])
    (hlen : s.totalW - s.totalR ≤ len) : s.readCount len = s.totalW - s.totalR := by
  have hseen : s.totalR + s.occConsumer = s.totalW := totalWs_eq_totalW_of_empty h hq
  unfold State.readCount
  omega

theorem readBytes_eq_unread {s : State} {len : Nat} (h : s.countersOk) (hbytes : s.bytesOk) (hq : s.qW = [])
    (hlen : s.totalW - s.totalR ≤ len) : s.readBytes len = s.accepted.drop s.totalR := by
  rw [readBytes_eq_take_drop h hbytes, readCount_eq_unread h hq hlen]
  exact List.take_of_length_le (List.length_drop (l := s.accepted)).le

/-- `t` is `s` drained by one READ: the unread bytes delivered and answered, and the buffer empty. -/
structure DrainedByRead (s t : State) : Prop where
  delivered : t.delivered = s.accepted
  accepted : t.accepted = s.accepted
  cons : t.cons = s.cons.answered (BitVec.ofNat 32 (s.totalW - s.totalR)) (s.accepted.drop s.totalR)
  occ : t.occ = 0

theorem execRead_drains {s : State} {len : Nat} (h : s.Inv) (hlive : s.live = true) (hq : s.qW = [])
    (hunread : s.totalR < s.totalW) (hlen : s.totalW - s.totalR ≤ len) :
    ∃ t, execRead len s = .next t ∧ DrainedByRead s t := by
  have hcount := h.counters hlive
  obtain ⟨t, ht⟩ := execRead_completes hcount hlive len
  have hn := readCount_eq_unread hcount hq hlen
  have hbytes := readBytes_eq_unread hcount (h.bytes hlive) hq hlen
  have hmoves := execRead_moves ht (by omega)
  rw [hn, hbytes] at hmoves
  have hword : responseWord .ok (s.totalW - s.totalR) = BitVec.ofNat 32 (s.totalW - s.totalR) := by
    refine responseWord_ok (lt_valueField_of_fits h.cfgOk ?_)
    exact hn ▸ (readCount_le_cap hcount len).trans (cap_le_storeSize hcount)
  have hdel : t.delivered = s.accepted := by
    rw [hmoves, State.respond_delivered, State.afterRead_delivered, hbytes, delivered_append_unread h.stream]
  have hacc : t.accepted = s.accepted := by rw [hmoves, State.respond_accepted, State.afterRead_accepted]
  have hlive' : t.live = true := by rw [hmoves, State.respond_live, State.afterRead_live, hlive]
  refine ⟨t, ht, hdel, hacc, ?_, ?_⟩
  · rw [hmoves, State.respond_cons_cons, ← hword]
    exact congrArg (PortUnit.answer · .ok _ _) (State.afterRead_port s len .cons)
  · obtain ⟨hocc, -, -⟩ := occ_eq_sub ((h.execRead ht).counters hlive')
    rw [hocc, State.totalW, State.totalR, hacc, hdel, Nat.sub_self]

theorem run_drains {s : State} {rest : List Event} {tr : Transaction} {len : Nat} (h : s.Inv) (hlive : s.live = true)
    (hmark : s.unmarked) (hbusy : s.cons.state = .busy tr) (hdec : decode .cons tr.word = .ok (.read len))
    (hunread : s.totalR < s.totalW) (hlen : s.totalW - s.totalR ≤ len)
    (hag : s.agenda = List.replicate s.qW.length (.agent .xw) ++ .execute .cons :: rest) :
    ∃ t, core.run (s.qW.length + 1) s = .next t ∧ DrainedByRead s t := by
  have hcross : s.cfg.crossing = .async ∨ s.qW = [] := by
    cases hc : s.cfg.crossing with
    | async => exact .inl rfl
    | sync => exact .inr (h.syncQueues hc).1
  obtain ⟨seen, hrun⟩ := run_deliveries hmark hcross hag
  have hu : (s.afterDeliveries seen (.execute .cons :: rest)).Inv := run_preserves (fun _ _ h hs => h.step hs) h hrun
  obtain ⟨t, hread, hdrained⟩ :=
    execRead_drains (s := s.afterDeliveries seen rest) (hu.withAgenda rest) hlive rfl hunread hlen
  have hstep : core.step (s.afterDeliveries seen (.execute .cons :: rest)) = .next t :=
    (stepRunsTheOutstandingCommand (s.afterDeliveries seen (.execute .cons :: rest)) .cons rest tr _ hmark rfl hbusy
      hdec).trans hread
  exact ⟨t, run_snoc hrun hstep, hdrained.delivered, hdrained.accepted, hdrained.cons, hdrained.occ⟩

end Sys2Proof.Machine
end

section
/-! Repeated READs drain the buffer (R151): a producer that has stopped accepts nothing more, what CONS is answered is
what was delivered, and under a fair schedule a READ that is executed after the last delivery moves a byte. -/

namespace Sys2Proof.Machine

variable {s t : State} {e : Event} {p q : Port}

/-! ## What an event leaves of a port -/

theorem agentStep_cases {a : Agent} (hs : s.agentStep a = .next t) :
    (∃ p, s.issue p = .next t) ∨ t = s.stepXW ∨ t = s.stepXR := by
  cases a with
  | host => exact .inl ⟨.ctrl, hs⟩
  | prod => exact .inl ⟨.prod, hs⟩
  | cons => exact .inl ⟨.cons, hs⟩
  | xw => exact .inr (.inl (Host.Outcome.next.inj hs).symm)
  | xr => exact .inr (.inr (Host.Outcome.next.inj hs).symm)

theorem port_stepXW (s : State) (q : Port) : s.stepXW.port q = s.port q := by cases q <;> simp

theorem port_stepXR (s : State) (q : Port) : s.stepXR.port q = s.port q := by cases q <;> simp

/-- An update of a port that leaves its responses leaves those of every port. -/
theorem responses_setPort {u : PortUnit} (hu : u.responses = (s.port p).responses) (q : Port) :
    ((s.setPort p u).port q).responses = (s.port q).responses := by
  by_cases hq : q = p
  · rw [hq, State.port_setPort_same, hu]
  · rw [State.port_setPort_other _ _ _ _ hq]

theorem responses_portAfter (s t : State) (q : Port) : (portAfter s t q).responses = (s.port q).responses := by
  unfold portAfter
  split
  · exact State.withdrawn_responses _
  · rfl

/-- There is no command to withdraw from an IDLE port. -/
theorem portAfter_of_idle (hidle : (s.port q).state = .idle) : portAfter s t q = s.port q := by
  unfold portAfter
  split
  · exact State.withdrawn_idle hidle
  · rfl

theorem executePort_idle_eq (hidle : (s.port p).state = .idle) (hs : s.executePort p = .next t) : t = s :=
  Host.Outcome.next.inj (hs.symm.trans (executePort_of_idle hidle))

theorem executePort_port_other (hs : s.executePort p = .next t) (hq : q ≠ p) : t.port q = portAfter s t q := by
  cases hstate : (s.port p).state with
  | idle =>
    obtain rfl := executePort_idle_eq hstate hs
    exact (portAfter_of_live_eq rfl q).symm
  | busy tr =>
    obtain ⟨-, -, -, -, hothers⟩ := executePort_responds hstate hs
    exact hothers q hq

/-- A response is delivered on a port by the execution of that port alone (R66). -/
theorem runEvent_responses (hs : s.runEvent e = .next t) (hne : e ≠ .execute q) :
    (t.port q).responses = (s.port q).responses := by
  obtain ⟨a, rfl, ha⟩ | ⟨p, rfl, hp⟩ | ⟨p, tr, rfl, rfl⟩ | ⟨rfl, rfl⟩ := runEvent_cases hs
  · obtain ⟨p, hp⟩ | rfl | rfl := agentStep_cases ha
    · obtain ⟨tr, rest, -, -, -, rfl⟩ | rfl := issue_cases hp
      · exact responses_setPort (by rfl) q
      · rfl
    · rw [port_stepXW]
    · rw [port_stepXR]
  · rw [executePort_port_other hp (by rintro rfl; exact hne rfl), responses_portAfter]
  · exact responses_setPort (by rfl) q
  · rw [State.port_hardwareReset]

/-! ## A producer that has stopped (R151) -/

theorem producerStopped_of_port_eq (h : s.producerStopped) (hport : t.port .prod = s.port .prod) :
    t.producerStopped := by
  have hport : t.prod = s.prod := hport
  rwa [State.producerStopped, hport]

/-- It goes on only by a further decision of its agent (log entry 25). -/
theorem runEvent_producerStopped (h : s.producerStopped) (hsilent : ∀ tr, e ≠ .extend .prod tr)
    (hs : s.runEvent e = .next t) : t.producerStopped := by
  obtain ⟨hidle, hexhausted⟩ := h
  obtain ⟨a, rfl, ha⟩ | ⟨p, rfl, hp⟩ | ⟨p, tr, rfl, rfl⟩ | ⟨rfl, rfl⟩ := runEvent_cases hs
  · obtain ⟨p, hp⟩ | rfl | rfl := agentStep_cases ha
    · obtain ⟨tr, rest, -, hstream, -, rfl⟩ | rfl := issue_cases hp
      · have hprod : Port.prod ≠ p := by
          rintro rfl
          simp [hexhausted] at hstream
        exact producerStopped_of_port_eq ⟨hidle, hexhausted⟩ (State.port_setPort_other _ _ _ _ hprod)
      · exact ⟨hidle, hexhausted⟩
    · exact producerStopped_of_port_eq ⟨hidle, hexhausted⟩ (port_stepXW s _)
    · exact producerStopped_of_port_eq ⟨hidle, hexhausted⟩ (port_stepXR s _)
  · by_cases hprod : Port.prod = p
    · subst hprod
      obtain rfl := executePort_idle_eq (p := .prod) hidle hp
      exact ⟨hidle, hexhausted⟩
    · exact producerStopped_of_port_eq ⟨hidle, hexhausted⟩
        ((executePort_port_other hp hprod).trans (portAfter_of_idle hidle))
  · have hprod : Port.prod ≠ p := by
      rintro rfl
      exact hsilent tr rfl
    exact producerStopped_of_port_eq ⟨hidle, hexhausted⟩ (State.port_setPort_other _ _ _ _ hprod)
  · exact ⟨rfl, hexhausted⟩

/-- Without a command outstanding on PROD no byte is accepted. -/
theorem runEvent_accepted_of_idle (hidle : s.prod.state = .idle) (hlive : s.live = true) (hs : s.runEvent e = .next t)
    (hlive' : t.live = true) : t.accepted = s.accepted := by
  by_contra hne
  obtain rfl := (runEvent_buffer hlive hs hlive').producer_writes (.inr (.inr hne))
  exact hne (congrArg State.accepted (executePort_idle_eq (p := .prod) hidle hs))

/-! ## What CONS is answered (R105, R151) -/

/-- The data of the responses that `t` has on CONS beyond those of `s` are the bytes delivered in between. -/
def ReceivesWhatIsDelivered (s t : State) : Prop :=
  ∃ rs : List Response, t.cons.responses = s.cons.responses ++ rs ∧
    t.delivered = s.delivered ++ rs.flatMap Response.data

theorem ReceivesWhatIsDelivered.of_same (hresp : t.cons.responses = s.cons.responses)
    (hdel : t.delivered = s.delivered) : ReceivesWhatIsDelivered s t := ⟨[], by simpa using hresp, by simpa using hdel⟩

theorem ReceivesWhatIsDelivered.trans {u : State} (h : ReceivesWhatIsDelivered s t)
    (h' : ReceivesWhatIsDelivered t u) : ReceivesWhatIsDelivered s u := by
  obtain ⟨rs, hresp, hdel⟩ := h
  obtain ⟨rs', hresp', hdel'⟩ := h'
  exact ⟨rs ++ rs', by rw [hresp', hresp, List.append_assoc],
    by rw [hdel', hdel, List.flatMap_append, List.append_assoc]⟩

theorem ReceivesWhatIsDelivered.of_answered {w : Word} {d : List Byte} (hcons : t.cons = s.cons.answered w d)
    (hdel : t.delivered = s.delivered ++ d) : ReceivesWhatIsDelivered s t :=
  ⟨[⟨w, d⟩], congrArg PortUnit.responses hcons, by simpa using hdel⟩

theorem executePort_cons_receives (h : s.Inv) (hs : s.executePort .cons = .next t) : ReceivesWhatIsDelivered s t := by
  obtain ⟨-, rfl⟩ | ⟨-, -, -, -, rfl⟩ | ⟨tr, i, -, hdec, hexec⟩ := executePort_cases hs
  · exact .of_same rfl rfl
  · exact .of_answered rfl (List.append_nil _).symm
  · have hport := port_of_decode hdec
    cases i with
    | create req => cases hport
    | release => cases hport
    | capq => cases hport
    | write len => cases hport
    | read len =>
      obtain ⟨n, st, -, -, hcons, hdel, -⟩ := readDeliversTheNextAcceptedBytes s t len h hexec
      exact .of_answered hcons hdel

theorem runEvent_receives (h : s.Inv) (hlive : s.live = true) (hs : s.runEvent e = .next t) (hlive' : t.live = true) :
    ReceivesWhatIsDelivered s t := by
  by_cases he : e = .execute .cons
  · subst he
    exact executePort_cons_receives h hs
  · refine .of_same (runEvent_responses hs he) ?_
    by_contra hne
    exact he ((runEvent_buffer hlive hs hlive').consumer_reads (.inr hne))

/-- What CONS has received from `s` on, once all is delivered. -/
theorem receivedSince_of_drained (h : s.streamOk) (hrec : ReceivesWhatIsDelivered s t)
    (hall : t.delivered = s.accepted) : receivedSince s t = s.accepted.drop s.totalR := by
  obtain ⟨rs, hresp, hdel⟩ := hrec
  rw [receivedSince, hresp, List.drop_left]
  exact List.append_cancel_left (hdel.symm.trans (hall.trans (delivered_append_unread h).symm))

/-! ## The READ that moves a byte -/

/-- A READ of `len >= 1` moves a byte as long as the consumer sees one unread (R101). -/
theorem execRead_raises_totalR {len : Nat} (hlen : 1 ≤ len) (hseen : s.totalR < s.totalWs)
    (hs : execRead len s = .next t) : s.totalR < t.totalR := by
  have hseen : s.totalR < s.totalR + s.occConsumer := hseen
  have hn : 1 ≤ s.readCount len := Nat.le_min.mpr ⟨by omega, hlen⟩
  rw [execRead_moves hs hn]
  exact (Nat.lt_add_of_pos_right hn).trans_eq (State.afterRead_totalR s len).symm

/-! ## A live run of a producer that has stopped -/

section StoppedRun

variable {σ : Schedule} {run : Nat → State} (hrun : ∀ k, runUnder σ k s = .next (run k))
include hrun

theorem run_succ_of_event (k : Nat) : State.runEvent { run k with agenda := [] } (σ k) = .next (run (k + 1)) :=
  runEvent_of_step (s := { run k with agenda := [σ k] }) rfl (step_run hrun k)

theorem run_producerStopped (hstop : s.producerStopped) (hsilent : producerSilent σ) (k : Nat) :
    (run k).producerStopped := by
  induction k with
  | zero => exact run_zero hrun ▸ hstop
  | succ k ih =>
    exact runEvent_producerStopped (s := { run k with agenda := [] }) ih (hsilent k) (run_succ_of_event hrun k)

/-- A READ that is executed while the consumer sees an unread byte moves one. -/
theorem run_totalR_lt {k : Nat} (hread : readExecutesAt σ s k) (hseen : (run k).totalR < (run k).totalWs) :
    (run k).totalR < (run (k + 1)).totalR := by
  obtain ⟨hexec, u, tr, len, hu, hbusy, hdec, hlen⟩ := hread
  obtain rfl := Host.Outcome.next.inj ((hrun k).symm.trans hu)
  have hstep := run_succ_of_event hrun k
  rw [hexec] at hstep
  have hexec : execRead len { run k with agenda := [] } = .next (run (k + 1)) :=
    (executePort_of_busy (s := { run k with agenda := [] }) (p := .cons) hbusy hdec).symm.trans hstep
  exact execRead_raises_totalR (s := { run k with agenda := [] }) hlen hseen hexec

variable (hlive : ∀ k, (run k).live = true)
include hlive

theorem run_accepted (hstop : s.producerStopped) (hsilent : producerSilent σ) (k : Nat) :
    (run k).accepted = s.accepted := by
  induction k with
  | zero => rw [run_zero hrun]
  | succ k ih =>
    obtain ⟨hidle, -⟩ := run_producerStopped hrun hstop hsilent k
    exact (runEvent_accepted_of_idle (s := { run k with agenda := [] }) hidle (hlive k) (run_succ_of_event hrun k)
      (hlive (k + 1))).trans ih

variable (h : s.Inv)
include h

theorem run_receives (k : Nat) : ReceivesWhatIsDelivered s (run k) := by
  induction k with
  | zero => exact run_zero hrun ▸ .of_same rfl rfl
  | succ k ih =>
    exact ih.trans (runEvent_receives (s := { run k with agenda := [] }) ((run_inv hrun h k).withAgenda []) (hlive k)
      (run_succ_of_event hrun k) (hlive (k + 1)))

/-- What was accepted at the start the consumer comes to see, at once under a SYNC crossing (R28). -/
theorem totalW_start_eventually_seen (hfair : crossingFair σ s) : ∃ k, s.totalW ≤ (run k).totalWs := by
  cases hcross : s.cfg.crossing with
  | sync =>
    have hseen := totalWs_eq_totalW_of_empty (h.counters (run_zero hrun ▸ hlive 0)) (h.syncQueues hcross).1
    exact ⟨0, by rw [run_zero hrun, hseen]⟩
  | async =>
    obtain ⟨k, -, hseen⟩ := totalW_eventually_seen hrun hlive h hcross hfair 0
    exact ⟨k, run_zero hrun ▸ hseen⟩

/-- From the step on at which all is seen, each READ that is executed moves a byte, until none is left. -/
theorem totalW_start_eventually_delivered (hfair : crossingFair σ s)
    (hreads : ∀ k, (run k).totalR < s.totalW → ∃ j, k ≤ j ∧ readExecutesAt σ s j) :
    ∃ k, s.totalW ≤ (run k).totalR := by
  have hWs := monotone_nat_of_le_succ fun j => (run_totalsLe hrun hlive h j).totalWs
  have hR := monotone_nat_of_le_succ fun j => (run_totalsLe hrun hlive h j).totalR
  obtain ⟨k, hseen⟩ := totalW_start_eventually_seen hrun hlive h hfair
  obtain ⟨j, -, hall⟩ := eventually_delivered (k := k) (fires := readExecutesAt σ s) hR
    (holds := fun j => (run j).totalR < s.totalW ∧ s.totalW ≤ (run j).totalWs)
    (fun j hkj hlag => ⟨hlag, hseen.trans (hWs hkj)⟩)
    (fun i hholds => hreads i (hholds i le_rfl).1)
    (fun j hread hholds => run_totalR_lt hrun hread (hholds.1.trans_le hholds.2))
  exact ⟨j, hall⟩

theorem run_delivered_of_all (hstop : s.producerStopped) (hsilent : producerSilent σ) {k : Nat}
    (hall : s.totalW ≤ (run k).totalR) : (run k).delivered = s.accepted := by
  rw [(run_inv hrun h k).stream, run_accepted hrun hlive hstop hsilent k]
  exact List.take_of_length_le hall

end StoppedRun

/-- Settles O42: a READ that sees an unread byte moves one, and a fair crossing shows the consumer every one; the
bounded run is that of `run_drains`. -/
theorem readAfterDeliveryDrainsTheStream : Obligations.ReadAfterDeliveryDrainsTheStream := by
  refine ⟨fun σ s h hstop hsilent hfair hlives hreads => ?_,
    fun s rest tr len h hlive hmark hbusy hdec hunread hlen hag => ?_⟩
  · choose run hrun hlive using hlives
    obtain ⟨k, hall⟩ :=
      totalW_start_eventually_delivered hrun hlive h hfair fun k => hreads k (run k) (hrun k)
    refine ⟨k, fun j t hkj ht => ?_⟩
    obtain rfl := Host.Outcome.next.inj ((hrun j).symm.trans ht)
    have hmono := monotone_nat_of_le_succ (fun j => (run_totalsLe hrun hlive h j).totalR) hkj
    have hdel := run_delivered_of_all hrun hlive h hstop hsilent (hall.trans hmono)
    exact ⟨run_accepted hrun hlive hstop hsilent j, hdel,
      receivedSince_of_drained h.stream (run_receives hrun hlive h j) hdel⟩
  · obtain ⟨t, hrun, hdrained⟩ := run_drains h hlive hmark hbusy hdec hunread hlen hag
    exact ⟨t, hrun, hdrained.delivered, hdrained.accepted, hdrained.cons, hdrained.occ⟩

end Sys2Proof.Machine
end
